-- ==== Sys2Proof/Word.lean ====
section
/-! DEFINITION. The word types of the machine (R2, R24, R37, R40, R48). -/
namespace Sys2Proof

/-- A byte of memory. -/
abbrev Byte := BitVec 8
/-- A 32-bit register value (R37, R48). -/
abbrev W32 := BitVec 32
/-- A 64-bit value: a register pair, a mask register or a D-encoding word (R24, R40, R41). -/
abbrev W64 := BitVec 64
/-- One bit per lane of a wave; bit l stands for lane l (Table 5.1). -/
abbrev Mask := BitVec 64

end Sys2Proof
end

