-- ==== Sys2Proof/Config.lean ====
section
/-! DEFINITION. What stepping A2 fixes (R1, R50, Tables 5.8, 15.1) and the values the manual leaves open, which are
constants without a body: nothing in Lean can evaluate them (assumptions 1 to 4). -/
namespace Sys2Proof.Config

/-- The device's stepping tag (R50, Table 17.3). -/
def stepTag : Nat := 0x00010A02

/-- An undefined 32-bit value (R4), drawn afresh at each use: the argument is a counter that State advances, a lane and
a register or element. DESIGN CHOICE: assumption 1. Safe. -/
opaque undefWord : Nat → Nat → Nat → BitVec 32

/-- What the hardware of FRCP, FRSQ, FEX2, FLG2, FSIN and FCOS returns, as bits: a function of the operation, the TYPE
code, the MODE word and the source bits (R243). Only a candidate within R244's bound is used. DESIGN CHOICE: assumption 2.
Safe. -/
opaque approx : Nat → Nat → Nat → Nat → Nat

/-- A signature, hash or measured value that the manual names and gives no formula for (R496 to R500): the kind of value
and the bytes it is taken over. DESIGN CHOICE: assumption 3. Safe. -/
opaque digest : Nat → List (BitVec 8) → BitVec 64

/-- A choice the manual leaves to the device or to timing: what is chosen, and a counter that State advances.
DESIGN CHOICE: assumption 4. Safe. -/
opaque choice : Nat → Nat → Nat

end Sys2Proof.Config
end

