-- ==== Sys2Proof/Machine/Bits.lean ====
section
/-! DEFINITION. Bit fields, sign extension, narrowing and little-endian byte order (R2, R7, Table 0.2, R70). -/
namespace Sys2Proof

/-- bits(x, h, l) of Table 0.2: bits [h:l] of `x` as an unsigned integer. -/
def bitsOf (x h l : Nat) : Nat := x / 2 ^ l % 2 ^ (h + 1 - l)

/-- Bit `i` of `x` (R2). -/
def bitAt (x i : Nat) : Bool := x / 2 ^ i % 2 == 1

/-- sext(x, n) of Table 0.2: `x` taken as an `n`-bit two's-complement value. -/
def sextN (x n : Nat) : Int :=
  let y := x % 2 ^ n
  if 2 * y < 2 ^ n then (y : Int) else (y : Int) - (2 ^ n : Nat)

/-- The `n`-bit pattern of an integer: its value modulo 2^n (R69). -/
def wrapN (x : Int) (n : Nat) : Nat := (x % ((2 ^ n : Nat) : Int)).toNat

/-- The 64-bit value of an even:odd pair: the low half in the even register (R70). -/
def pair64 (lo hi : W32) : W64 := hi ++ lo

/-- Bits [31:0] of a 64-bit value. -/
def lo32 (x : W64) : W32 := x.extractLsb' 0 32
/-- Bits [63:32] of a 64-bit value. -/
def hi32 (x : W64) : W32 := x.extractLsb' 32 32

/-- Puts an element before the first that it may precede. -/
def insertBy {α : Type} (le : α → α → Bool) (a : α) : List α → List α
  | [] => [a]
  | b :: t => if le a b then a :: b :: t else b :: insertBy le a t
/-- A list in order, equal elements in the order they had. -/
def sortBy {α : Type} (le : α → α → Bool) (l : List α) : List α := l.foldr (insertBy le) []

/-- The `n` bytes of `x`, byte 0 first (R2: little-endian). -/
def bytesOf : Nat → Nat → List Byte
  | 0, _ => []
  | n + 1, x => BitVec.ofNat 8 x :: bytesOf n (x / 256)

/-- The number whose little-endian bytes are given (R2). -/
def natOfBytes : List Byte → Nat
  | [] => 0
  | b :: bs => b.toNat + 256 * natOfBytes bs

/-- Lane `l`'s bit of a mask (Table 5.1). -/
def Mask.has (m : Mask) (l : Nat) : Bool := m.getLsbD l

/-- The mask of one lane. -/
def Mask.one (l : Nat) : Mask := 1#64 <<< l

/-- Ones in bits 0 to `w` - 1 (R198 `.setw`). -/
def Mask.low (w : Nat) : Mask := BitVec.ofNat 64 (2 ^ w - 1)

/-- The lanes of a mask, ascending. -/
def Mask.lanes (m : Mask) : List Nat := (List.range 64).filter fun l => m.getLsbD l

/-- The mask of a list of lanes. -/
def Mask.ofLanes (ls : List Nat) : Mask := ls.foldl (fun m l => m ||| Mask.one l) 0

/-- The number of lanes of a mask. -/
def Mask.count (m : Mask) : Nat := (Mask.lanes m).length

/-- The bits of the quads (groups of four lanes, R138) that hold a lane of the mask. -/
def Mask.quads (m : Mask) : Mask :=
  Mask.ofLanes ((List.range 64).filter fun l => m.extractLsb' (4 * (l / 4)) 4 != 0#4)

/-- A counter that saturates at 2^64 - 1 (R496), raised by `n`. -/
def satAdd (n x : Nat) : Nat := min (x + n) (2 ^ 64 - 1)

/-- The lowest lane of a mask. -/
def Mask.first (m : Mask) : Option Nat := (Mask.lanes m).head?

/-- Rounds `x` up to a multiple of `n`. -/
def roundUp (x n : Nat) : Nat := (x + n - 1) / n * n

/-- floor(log2 x) for x > 0, and 0 for 0. -/
def flog2 (x : Nat) : Nat := Nat.log2 x

end Sys2Proof
end

