-- ==== Sys2Proof/Machine/Float.lean ====
section
/-! DEFINITION. Number formats, exact values and rounding (R71 to R84), the approximations' bounds (R243, R244). -/
namespace Sys2Proof

/-- A floating-point format (Table 3.1): total bits, fraction bits, bias, whether the all-ones exponent is infinity and
NaN by IEEE, the bits of the largest finite magnitude, and the canonical NaN (none where the format has no NaN). -/
structure Fmt where
  bits : Nat
  frac : Nat
  bias : Nat
  ieee : Bool
  maxFin : Nat
  nan : Option Nat
deriving DecidableEq, Repr, Inhabited

def f64 : Fmt := ⟨64, 52, 1023, true, 0x7FEFFFFFFFFFFFFF, some 0x7FF8000000000000⟩
def f32 : Fmt := ⟨32, 23, 127, true, 0x7F7FFFFF, some 0x7FC00000⟩
def f16 : Fmt := ⟨16, 10, 15, true, 0x7BFF, some 0x7E00⟩
def bf16 : Fmt := ⟨16, 7, 127, true, 0x7F7F, some 0x7FC0⟩
def e5m2 : Fmt := ⟨8, 2, 15, true, 0x7B, some 0x7E⟩
def e4m3 : Fmt := ⟨8, 3, 7, false, 0x7E, some 0x7F⟩
def e2m1 : Fmt := ⟨4, 1, 1, false, 0x7, none⟩

/-- The format of a floating-point TYPE code other than ds8 (Table 2.6). -/
def fmtOfTy (ty : Nat) : Fmt :=
  match ty with
  | 8 => f16 | 9 => bf16 | 10 => f32 | 11 => f64 | 12 => e4m3 | 13 => e5m2 | _ => e2m1

/-- An exact value: NaN, an infinity, or (-1)^neg * mag * 2^exp. A zero keeps its sign (R75). -/
inductive XVal where
  | nan
  | inf (neg : Bool)
  | fin (neg : Bool) (mag : Nat) (exp : Int)
deriving DecidableEq, Repr, Inhabited

namespace XVal

/-- Positive zero. -/
def zero : XVal := .fin false 0 0
/-- An integer. -/
def ofInt (x : Int) : XVal := .fin (x < 0) x.natAbs 0
/-- Is it NaN? -/
def isNan : XVal → Bool
  | .nan => true
  | _ => false
/-- The sign. -/
def neg? : XVal → Bool
  | .nan => false
  | .inf n => n
  | .fin n _ _ => n
/-- The negation. -/
def neg : XVal → XVal
  | .nan => .nan
  | .inf n => .inf (!n)
  | .fin n m e => .fin (!n) m e
/-- Is it a zero? -/
def isZero : XVal → Bool
  | .fin _ 0 _ => true
  | _ => false
/-- The value times 2^k. -/
def scale (k : Int) : XVal → XVal
  | .fin n m e => .fin n m (e + k)
  | x => x
/-- The signed magnitude of a finite value at exponent `e`, which is at most its own. -/
def signedAt (e : Int) (n : Bool) (m : Nat) (e' : Int) : Int :=
  let k : Nat := m * 2 ^ (e' - e).toNat
  if n then -(k : Int) else (k : Int)

/-- The exact sum; `rdn` gives the sign of an exact zero from operands of opposite sign (R75, R77). -/
def add (rdn : Bool) : XVal → XVal → XVal
  | .nan, _ => .nan
  | _, .nan => .nan
  | .inf a, .inf b => if a == b then .inf a else .nan
  | .inf a, _ => .inf a
  | _, .inf b => .inf b
  | .fin a m e, .fin b m' e' =>
    let lo := min e e'
    let s := signedAt lo a m e + signedAt lo b m' e'
    if s == 0 then .fin (if a == b then a else rdn) 0 lo else .fin (s < 0) s.natAbs lo

/-- The exact product (R77). -/
def mul : XVal → XVal → XVal
  | .nan, _ => .nan
  | _, .nan => .nan
  | .inf a, y => if y.isZero then .nan else .inf (a != y.neg?)
  | x, .inf b => if x.isZero then .nan else .inf (x.neg? != b)
  | .fin a m e, .fin b m' e' => .fin (a != b) (m * m') (e + e')

/-- Compares two values that are not NaN. -/
def cmp (x y : XVal) : Ordering :=
  match x, y with
  | .inf a, .inf b => if a == b then .eq else if a then .lt else .gt
  | .inf a, _ => if a then .lt else .gt
  | _, .inf b => if b then .gt else .lt
  | .fin a m e, .fin b m' e' =>
    let lo := min e e'
    compare (signedAt lo a m e) (signedAt lo b m' e')
  | _, _ => .eq

/-- |x| ≤ |y| for finite values. -/
def absLe (x y : XVal) : Bool :=
  match x, y with
  | .fin _ m e, .fin _ m' e' => let lo := min e e'; m * 2 ^ (e - lo).toNat ≤ m' * 2 ^ (e' - lo).toNat
  | _, _ => false

end XVal

/-- The exponent of the smallest subnormal. -/
def Fmt.qmin (f : Fmt) : Int := 1 - (f.bias : Int) - (f.frac : Int)
/-- The sign bit. -/
def Fmt.signBit (f : Fmt) (n : Bool) : Nat := if n then 2 ^ (f.bits - 1) else 0
/-- Infinity's magnitude bits in an IEEE format. -/
def Fmt.infBits (f : Fmt) : Nat := f.maxFin + 1

/-- The value of an encoding (R71, R72). -/
def decodeF (f : Fmt) (x : Nat) : XVal :=
  let x := x % 2 ^ f.bits
  let n := bitAt x (f.bits - 1)
  let mag := x % 2 ^ (f.bits - 1)
  if f.ieee && mag > f.maxFin then (if mag == f.infBits then .inf n else .nan)
  else if f.nan == some mag && !f.ieee then .nan
  else
    let e := mag / 2 ^ f.frac
    let fr := mag % 2 ^ f.frac
    if e == 0 then .fin n fr f.qmin else .fin n (2 ^ f.frac + fr) (f.qmin + (e : Int) - 1)

/-- Rounds m * 2^e to a multiple of 2^q under MOD (R73): the multiple. -/
def roundAt (mode : Nat) (n : Bool) (m : Nat) (e q : Int) : Nat :=
  if e ≥ q then m * 2 ^ (e - q).toNat
  else
    let d := (q - e).toNat
    let k := m / 2 ^ d
    let r := m % 2 ^ d
    let up := match mode with
      | 0 => 2 * r > 2 ^ d || (2 * r == 2 ^ d && k % 2 == 1)
      | 1 => false
      | 2 => n && r != 0
      | _ => !n && r != 0
    if up then k + 1 else k

/-- The magnitude bits of a nonzero finite value rounded to a format, overflow not yet considered. -/
def roundMag (f : Fmt) (mode : Nat) (n : Bool) (m : Nat) (e : Int) : Nat :=
  let q := max ((Nat.log2 m : Int) + e - (f.frac : Int)) f.qmin
  roundAt mode n m e q + (q - f.qmin).toNat * 2 ^ f.frac

/-- The encoding of an overflow (R74). -/
def overflowF (f : Fmt) (mode : Nat) (n : Bool) : Nat :=
  let big := match mode with
    | 0 => true
    | 1 => false
    | 2 => n
    | _ => !n
  f.signBit n + if f.ieee && big then f.infBits else f.maxFin

/-- round_fmt(x, f, m): R73 to R75, with the specials of R74, R77 and R79. -/
def roundF (f : Fmt) (mode : Nat) (x : XVal) : Nat :=
  match x with
  | .nan => f.nan.getD 0
  | .inf n => f.signBit n + if f.ieee then f.infBits else f.maxFin
  | .fin n m e =>
    if m == 0 then f.signBit n
    else
      let b := roundMag f mode n m e
      if b > f.maxFin then overflowF f mode n else f.signBit n + b

/-- Flushes a subnormal encoding to a zero of its sign (R80, R81). -/
def flushF (ftz : Bool) (f : Fmt) (x : Nat) : Nat :=
  if ftz && x % 2 ^ (f.bits - 1) < 2 ^ f.frac then x / 2 ^ (f.bits - 1) % 2 * 2 ^ (f.bits - 1) else x

/-- Does MODE flush elements of this TYPE outside a block (R80 to R82)? -/
def ftzOn (mode : Nat) (ty : Nat) : Bool := (ty == 10 && bitAt mode 2) || ((ty == 8 || ty == 9) && bitAt mode 3)

/-- A ds8 element's value in 64ths (R83). -/
def ds8Int (x : Nat) : Int :=
  let t (s e : Nat) : Int := if e == 7 then 0 else if s == 1 then -(2 ^ (6 - e) : Nat) else (2 ^ (6 - e) : Nat)
  t (x / 128 % 2) (x / 16 % 8) + t (x / 8 % 2) (x % 8)
/-- A ds8 element's value. -/
def decodeDs8 (x : Nat) : XVal := let n := ds8Int x; .fin (n < 0) n.natAbs (-6)

/-- The value of an element of a floating-point TYPE, ds8 included. -/
def decodeTy (ty x : Nat) : XVal := if ty == 15 then decodeDs8 x else decodeF (fmtOfTy ty) x

/-- The source value of an instruction of TYPE `ty`: ftz(x as ty, ty) (R80 to R82). -/
def srcF (mode ty x : Nat) : XVal :=
  if ty == 15 then decodeDs8 x else decodeF (fmtOfTy ty) (flushF (ftzOn mode ty) (fmtOfTy ty) (x % 2 ^ (fmtOfTy ty).bits))

/-- Lists the 256 ds8 codes in ascending order. -/
def ds8Codes : List Nat := List.range 256

/-- |x - c/64| for a finite x, as a value. -/
def ds8Dist (x : XVal) (c : Nat) : XVal :=
  match XVal.add false x (decodeDs8 c).neg with
  | .fin _ m e => .fin false m e
  | y => y

/-- Converts a value to ds8 (R84, R79): the nearest value, a tie to the smaller magnitude, and of its codes the
numerically smallest. Overflow saturates to 0x00 or 0x88. -/
def toDs8 (x : XVal) : Nat :=
  match x with
  | .nan => 0x08
  | .inf n => if n then 0x88 else 0x00
  | .fin _ _ _ =>
    let better (a b : Nat) : Bool :=
      match (ds8Dist x b).cmp (ds8Dist x a) with
      | .lt => true
      | .eq => (ds8Int b).natAbs < (ds8Int a).natAbs
      | .gt => false
    ds8Codes.foldl (fun best c => if better best c then c else best) 0

/-- The result of TYPE `ty`: ftz(round_fmt(x, ty, m), ty), or R84 for ds8. -/
def resF (mode ty rnd : Nat) (x : XVal) : Nat :=
  if ty == 15 then toDs8 x else flushF (ftzOn mode ty) (fmtOfTy ty) (roundF (fmtOfTy ty) rnd x)

/-- Is the value a value of the format, so that rounding leaves it alone? -/
def representable (f : Fmt) (x : XVal) : Bool :=
  match x with
  | .fin _ _ _ => (decodeF f (roundF f 1 x)).cmp x == .eq
  | _ => true

/-- Stochastic rounding (R76), before the flush. -/
def roundSr (f : Fmt) (x : XVal) (c : Nat) : Nat :=
  match x with
  | .fin n m e =>
    if m == 0 || representable f x || roundMag f 1 n m e > f.maxFin ||
        ((decodeF f f.maxFin).cmp (.fin false m e) == .lt) then roundF f 0 x
    else
      let lo := roundMag f 1 n m e
      let q := max ((Nat.log2 m : Int) + e - (f.frac : Int)) f.qmin
      let d := (q - e).toNat
      let fr := m % 2 ^ d * 2 ^ 32 / 2 ^ d
      let b := if fr + c ≥ 2 ^ 32 then lo + 1 else lo
      f.signBit n + min b f.maxFin
  | _ => roundF f 0 x

/-- The integer a value rounds to under MOD (R73, R246). -/
def toIntR (mode : Nat) : XVal → Int
  | .fin n m e => let k : Int := (roundAt mode n m e 0 : Nat); if n then -k else k
  | _ => 0

/-- Rounds to an integral value (R239): infinities, and magnitudes of 2^frac or more, are unchanged. -/
def roundIntegral (mode : Nat) (x : XVal) : XVal :=
  match x with
  | .fin n m e => if e ≥ 0 then x else .fin n (roundAt mode n m e 0) 0
  | y => y

/-- Integer square root, bit by bit from bit `k` - 1 down. -/
def isqrtAux (x : Nat) : Nat → Nat → Nat
  | 0, r => r
  | k + 1, r => let t := r + 2 ^ k; isqrtAux x k (if t * t ≤ x then t else r)
def isqrt (x : Nat) : Nat := isqrtAux x (Nat.log2 x / 2 + 1) 0

/-- The exact quotient of two finite nonzero magnitudes, to 130 bits and a sticky bit: every rounding of it is the
rounding of the quotient. -/
def quotX (n : Bool) (m : Nat) (e : Int) (m' : Nat) (e' : Int) : XVal :=
  let k := 130 + Nat.log2 m'
  let a := m * 2 ^ k
  .fin n (a / m' * 2 + if a % m' == 0 then 0 else 1) (e - e' - (k : Int) - 1)

/-- x / y (R242). -/
def divX (x y : XVal) : XVal :=
  match x, y with
  | .nan, _ => .nan
  | _, .nan => .nan
  | .inf _, .inf _ => .nan
  | .inf a, y => .inf (a != y.neg?)
  | .fin a _ _, .inf b => .fin (a != b) 0 0
  | .fin a m e, .fin b m' e' =>
    if m' == 0 then (if m == 0 then .nan else .inf (a != b))
    else if m == 0 then .fin (a != b) 0 0 else quotX (a != b) m e m' e'

/-- The square root (R242), to more than 130 bits and a sticky bit. -/
def sqrtX (x : XVal) : XVal :=
  match x with
  | .fin n m e =>
    if m == 0 then .fin n 0 0
    else if n then .nan
    else
      let k : Nat := 260 + (if (e - 260) % 2 == 0 then 0 else 1)
      let a := m * 2 ^ k
      let r := isqrt a
      .fin false (r * 2 + if r * r == a then 0 else 1) ((e - (k : Int)) / 2 - 1)
  | .inf n => if n then .nan else .inf false
  | .nan => .nan

/-- minimumNumber and maximumNumber on encodings (R78); `a1` is the A1 treatment of zeros (R238). -/
def minMaxF (f : Fmt) (isMax a1 : Bool) (a b : Nat) : Nat :=
  let x := decodeF f a
  let y := decodeF f b
  if x.isNan && y.isNan then f.nan.getD 0
  else if x.isNan then b
  else if y.isNan then a
  else if x.isZero && y.isZero then
    (if a1 then a else if isMax then (if x.neg? then b else a) else (if x.neg? then a else b))
  else match x.cmp y with
    | .lt => if isMax then b else a
    | .gt => if isMax then a else b
    | .eq => a

/-! ### Approximations (R243, R244) -/

/-- Fixed-point numbers of the approximations: integers over 2^fx. -/
def fx : Nat := 420
/-- The value of a dyadic number as a fixed-point integer. -/
def toFx (n : Bool) (m : Nat) (e : Int) : Int :=
  let k : Int := e + (fx : Int)
  let a : Nat := if k ≥ 0 then m * 2 ^ k.toNat else m / 2 ^ (-k).toNat
  if n then -(a : Int) else (a : Int)
/-- Fixed-point product. -/
def mulFx (a b : Int) : Int := a * b / (2 ^ fx : Nat)
/-- Σ x^k / k! from term `k` on: `t` is the running term. -/
def expSeries (x : Int) : Nat → Nat → Int → Int → Int
  | 0, _, _, acc => acc
  | n + 1, k, t, acc => let t := mulFx t x / (k : Int); expSeries x n (k + 1) t (acc + t)
/-- exp(x) for a small fixed-point x. -/
def expFx (x : Int) : Int := expSeries x 90 1 (2 ^ fx : Nat) (2 ^ fx : Nat)
/-- 2 * atanh(z) = ln((1+z)/(1-z)), by its series: `p` is z^(2k+1). -/
def atanhSeries (z2 : Int) : Nat → Nat → Int → Int → Int
  | 0, _, _, acc => 2 * acc
  | n + 1, k, p, acc => atanhSeries z2 n (k + 2) (mulFx p z2) (acc + p / (k : Int))
/-- ln(a / b) for 1 ≤ a / b ≤ 2. -/
def lnRatio (a b : Int) : Int :=
  let z := (a - b) * (2 ^ fx : Nat) / (a + b)
  atanhSeries (mulFx z z) 150 1 z 0
/-- ln 2. -/
def ln2Fx : Int := lnRatio 2 1
/-- arctan(1/q), by its series. -/
def atanInv (q : Int) : Nat → Nat → Int → Int → Int
  | 0, _, _, acc => acc
  | n + 1, k, p, acc =>
    atanInv q n (k + 2) (-(p / (q * q))) (acc + p / (k : Int))
/-- π, by Machin's formula. -/
def piFx : Int :=
  let one : Int := (2 ^ fx : Nat)
  4 * (4 * atanInv 5 100 1 (one / 5) 0 - atanInv 239 40 1 (one / 239) 0)
/-- sin (from t = x, k = 2) and cos (from t = 1, k = 1), by their series. -/
def sinSeries (x2 : Int) : Nat → Nat → Int → Int → Int
  | 0, _, _, acc => acc
  | n + 1, k, t, acc => let t := -(mulFx t x2 / ((k * (k + 1) : Nat) : Int)); sinSeries x2 n (k + 2) t (acc + t)

/-- log2 of the magnitude of a fixed-point number, and its value as an exact value. -/
def ofFx (x : Int) : XVal := .fin (x < 0) x.natAbs (-(fx : Int))

/-- The exact results the approximations are measured against, to some 280 bits: 0 FRCP, 1 FRSQ, 2 FEX2, 3 FLG2, 4 FSIN,
5 FCOS, of a finite nonzero x. -/
def exactFn (op : Nat) (n : Bool) (m : Nat) (e : Int) : XVal :=
  match op with
  | 0 => quotX n 1 0 m e
  | 1 => match sqrtX (.fin false m e) with
    | .fin _ m' e' => quotX false 1 0 m' e'
    | y => y
  | 2 =>
    let x := toFx n m e
    let i := x / (2 ^ fx : Nat)
    let f := x - i * (2 ^ fx : Nat)
    (ofFx (expFx (mulFx f ln2Fx))).scale i
  | 3 =>
    let l := Nat.log2 m
    let r := lnRatio (m : Int) ((2 ^ l : Nat) : Int)
    ofFx (r * (2 ^ fx : Nat) / ln2Fx + ((l : Int) + e) * (2 ^ fx : Nat))
  | _ =>
    let x := toFx n m e
    let tau := 2 * piFx
    let r := x % tau
    let r := if r > piFx then r - tau else r
    let x2 := mulFx r r
    if op == 4 then ofFx (sinSeries x2 60 2 r r) else ofFx (sinSeries x2 60 1 (2 ^ fx : Nat) (2 ^ fx : Nat))

/-- Is candidate r within R244's bound of the exact y? `k` is the bound in ulp, `absB` an absolute bound 2^absB where one
applies. -/
def withinBound (f : Fmt) (k : Nat) (absB : Option Int) (y r : XVal) : Bool :=
  match r, y with
  | .fin _ _ _, .fin _ m e =>
    let u : Int := max ((Nat.log2 m : Int) + e) (f.qmin + (f.frac : Int)) - (f.frac : Int)
    let d := XVal.add false r y.neg
    d.absLe (.fin false k u) || (match absB with
      | some b => d.absLe (.fin false 1 b)
      | none => false)
  | _, _ => false

/-- Tables 8.3 and 8.4: the ulp bound and the absolute bound of an approximation at x = ±m * 2^e. -/
def boundOf (op : Nat) (m : Nat) (e : Int) : Nat × Option Int :=
  let x : XVal := .fin false m e
  match op with
  | 0 => (1, none)
  | 1 => (2, none)
  | 2 => (2, none)
  | 3 => (2, if x.cmp (.fin false 1 (-1)) != .lt && x.cmp (.fin false 1 1) != .gt then some (-22) else none)
  | _ => (2, if x.absLe (.fin false piFx.natAbs (-(fx : Int) - 2)) then none else some (-24))

/-- Table 8.3 and the exact results below it; none where R244's bound decides. -/
def specialFn (op : Nat) (x : XVal) : Option XVal :=
  match x with
  | .nan => some .nan
  | .inf n =>
    match op with
    | 0 => some (.fin n 0 0)
    | 1 => some (if n then .nan else .zero)
    | 2 => some (if n then .zero else .inf false)
    | 3 => some (if n then .nan else .inf false)
    | _ => some .nan
  | .fin n m e =>
    if m == 0 then
      match op with
      | 0 => some (.inf n)
      | 1 => some (.inf n)
      | 2 => some (.ofInt 1)
      | 3 => some (.inf true)
      | 4 => some (.fin n 0 0)
      | _ => some (.ofInt 1)
    else
      let l := Nat.log2 m
      let pow := m == 2 ^ l
      let ex : Int := (l : Int) + e
      match op with
      | 0 => if pow then some (.fin n 1 (-ex)) else none
      | 1 => if n then some .nan else if pow && ex % 2 == 0 then some (.fin false 1 (-ex / 2)) else none
      | 2 =>
        let i := toIntR 1 x
        if x.cmp (.ofInt 128) != .lt then some (.inf false)
        else if x.cmp (.ofInt (-150)) == .lt then some .zero
        else if (XVal.ofInt i).cmp x == .eq && -149 ≤ i then some (.fin false 1 i) else none
      | 3 => if n then some .nan else if pow then some (.ofInt ex) else none
      | _ => none

/-- Is a special or exact result one that the format has: a NaN, an infinity, or no finite value beyond the largest magnitude? -/
def inRange (f : Fmt) (y : XVal) : Bool :=
  match y with
  | .fin _ m e => (XVal.fin false m e).cmp (decodeF f f.maxFin) != .gt
  | _ => true
/-- The result of an approximation before the flush (R243, R244): a special or exact result that is representable; otherwise the
hardware's candidate where it meets the bound, and else the rounded exact value; beyond the largest finite magnitude, an
infinity or that magnitude, as the hardware's candidate says. -/
def approxF (op ty mode : Nat) (src : XVal) (bits : Nat) : Nat :=
  let f := fmtOfTy ty
  match (specialFn op src).filter (inRange f) with
  | some y => roundF f 0 y
  | none =>
    match src with
    | .fin n m e =>
      let y := exactFn op n m e
      let c := Config.approx op ty mode bits
      if y.cmp (decodeF f f.maxFin) == .gt || y.cmp (decodeF f (f.signBit true + f.maxFin)) == .lt then
        f.signBit y.neg? + if c % 2 == 0 then f.infBits else f.maxFin
      else
        let b := boundOf op m e
        if withinBound f b.1 b.2 y (decodeF f c) then c % 2 ^ f.bits else roundF f 0 y
    | _ => f.nan.getD 0

end Sys2Proof
end

