-- ==== Sys2Proof/Syntax.lean ====
section
/-! DEFINITION. The instructions and events of the part: one constructor per row of spec/opcode_table.json.
Field layouts: R30 to R36, Tables 2.2 to 2.4, R396, R191, R436, Tables 9.7, 10.3, 11.3, 12.2, 16.2, R470. -/
namespace Sys2Proof

/-- A 10-bit operand field (R37, Table 2.5). `bad` is the mask class with nonzero bits [6:4], which Table 2.5 forbids. -/
inductive Operand where
  | v (n : BitVec 9)
  | s (n : BitVec 7)
  | imm (n : BitVec 7)
  | spec (n : BitVec 7)
  | mask (n : BitVec 4)
  | bad (n : BitVec 7)
deriving DecidableEq, Repr, Inhabited

/-- The R format (R30, Table 2.2), less its opcode. -/
structure RF where
  stall : BitVec 2
  ep : BitVec 3
  k : BitVec 4
  kn : Bool
  sc : Bool
  d : BitVec 9
  a : Operand
  b : Operand
  c : Operand
  ty : BitVec 4
  md : BitVec 2
deriving DecidableEq, Repr, Inhabited

/-- The I format (R31): the R format with a 22-bit immediate in bits [25:4]. -/
structure IF where
  stall : BitVec 2
  ep : BitVec 3
  k : BitVec 4
  kn : Bool
  sc : Bool
  d : BitVec 9
  a : Operand
  imm : BitVec 22
  ty : BitVec 4
deriving DecidableEq, Repr, Inhabited

/-- The MOVI word (R226, Table 7.2). -/
structure MoviF where
  stall : BitVec 2
  ep : BitVec 3
  k : BitVec 4
  kn : Bool
  sc : Bool
  d : BitVec 9
  imm : BitVec 32
  ty : BitVec 4
deriving DecidableEq, Repr, Inhabited

/-- The B format (R32, Table 2.3); its reserved field is zero in every decoded instruction. -/
structure BF where
  k : BitVec 4
  kn : Bool
  bmod : BitVec 4
  off : BitVec 32
  a : Operand
deriving DecidableEq, Repr, Inhabited

/-- The M format (R33, Table 2.4). -/
structure MF where
  ord : BitVec 2
  ep : BitVec 2
  k : BitVec 4
  kn : Bool
  sc : Bool
  strm : Bool
  data : BitVec 9
  base : BitVec 8
  off : BitVec 24
  mty : BitVec 4
deriving DecidableEq, Repr, Inhabited

/-- The A format (R34). -/
structure AF where
  ord : BitVec 2
  scope : BitVec 5
  k : BitVec 4
  kn : Bool
  d : BitVec 9
  base : BitVec 8
  data : Operand
  cmp : Operand
  aop : BitVec 4
  aty : BitVec 3
deriving DecidableEq, Repr, Inhabited

/-- A compact unit with an operand B (R57, Table 2.12). -/
structure CF where
  k : BitVec 2
  sc : Bool
  d : BitVec 7
  a : BitVec 7
  b : BitVec 7
deriving DecidableEq, Repr, Inhabited

/-- A compact unit of a unary entry or of SRD: B7 is zero (R57). -/
structure CU where
  k : BitVec 2
  sc : Bool
  d : BitVec 7
  a : BitVec 7
deriving DecidableEq, Repr, Inhabited

/-- SPAWN extension word (Table 13.9). -/
structure SpawnX where
  psz : BitVec 2
deriving DecidableEq, Repr, Inhabited
/-- REGROUP extension word (R191). -/
structure RegroupX where
  part : BitVec 16
deriving DecidableEq, Repr, Inhabited
/-- PUBLISH extension word (R436). -/
structure PublishX where
  stat : BitVec 7
deriving DecidableEq, Repr, Inhabited
/-- TLD and TST extension word (Table 9.7). -/
structure TensorX where
  km : BitVec 4
  hnd : BitVec 4
deriving DecidableEq, Repr, Inhabited
/-- QLD and QST extension word (Table 10.3). -/
structure StreamX where
  ndim : BitVec 2
  strm : Bool
  sh : BitVec 3
  mode : BitVec 2
  mty : BitVec 4
  qi : BitVec 4
  qd : BitVec 4
deriving DecidableEq, Repr, Inhabited
/-- PLAUNCH extension word (R295). -/
structure PlaunchX where
  off : BitVec 30
  bind : BitVec 16
deriving DecidableEq, Repr, Inhabited
/-- The common extension fields of a Courier command (Table 11.3). -/
structure CopyX where
  scope : BitVec 5
  sig : Bool
  sreg : BitVec 7
deriving DecidableEq, Repr, Inhabited
/-- CPY extension word (R328). -/
structure CpyX where
  x : CopyX
  esize : BitVec 3
  ndim : BitVec 2
deriving DecidableEq, Repr, Inhabited
/-- CPYG extension word (R329). -/
structure CpygX where
  x : CopyX
  idx : BitVec 9
deriving DecidableEq, Repr, Inhabited
/-- CPYH extension word (Table 11.4). -/
structure CpyhX where
  x : CopyX
  esize : BitVec 3
  bmode : BitVec 2
  edge : BitVec 4
  halo : BitVec 5
deriving DecidableEq, Repr, Inhabited
/-- CPYS extension word (Table 11.5). -/
structure CpysX where
  x : CopyX
  str : BitVec 3
  fm : BitVec 2
  pat : BitVec 2
  tm : BitVec 2
  etype : BitVec 4
  drop : Bool
deriving DecidableEq, Repr, Inhabited
/-- CPYQ extension word (R332). -/
structure CpyqX where
  x : CopyX
  str : BitVec 3
  rows : BitVec 4
deriving DecidableEq, Repr, Inhabited
/-- MMA, MMAS and MMAD extension word (Table 12.2). -/
structure MmaX where
  acc : BitVec 3
  fa : BitVec 2
  fb : BitVec 2
  fm : BitVec 2
  nstep : BitVec 6
  aty : BitVec 4
  bty : BitVec 4
  sdb : Bool
  pat : BitVec 2
  terms : BitVec 2
deriving DecidableEq, Repr, Inhabited
/-- TEX and TEXG extension word (R470). -/
structure TexX where
  img : BitVec 7
  smp : BitVec 7
deriving DecidableEq, Repr, Inhabited
/-- RAST extension word (Table 16.2). -/
structure RastX where
  noemit : Bool
  rule : BitVec 2
  kind : BitVec 2
deriving DecidableEq, Repr, Inhabited

/-- The engine classes of Table 14.13, each with the place of one unit of the class (R425). -/
inductive Engine where
  | sequencer (die core sub : Nat)
  | porter (die core sub : Nat)
  | courier (die core : Nat)
  | matrix (die core sub : Nat)
  | memUnit (die core : Nat)
  | raster (die : Nat)
  | texture (die unit : Nat)
  | atomicUnit (die chan : Nat)
  | queueProc (die : Nat)
  | walker (die : Nat)
deriving DecidableEq, Repr, Inhabited

/-- What raises the security alarm (R499). -/
inductive AlarmCause where
  | tamper | glitch | hashCheck | debugPort
deriving DecidableEq, Repr, Inhabited

/-- What a cold reset finds (R497, R500, Table 17.7): which firmware slots verify and which die, if any, fails its self-tests. -/
structure BringUp where
  slot0 : Bool
  slot1 : Bool
  failDie : Option Nat
  moduleFail : Bool
deriving DecidableEq, Repr, Inhabited

/-- One reading of the Innkeeper's sensors (R494): island temperatures in degrees and currents, by island number 8 * die + i;
coolant; supply; draw in W. -/
structure Readings where
  temps : List (Nat × Nat)
  currents : List (Nat × Nat)
  inlet : Nat
  outlet : Nat
  flow : Nat
  volts : Nat
  amps : Nat
  draw : Nat
deriving DecidableEq, Repr, Inhabited

/-- What an access wants of its translation (R408): to read, to write, to fetch; a plain store; made with H = 1; made by
the walker or a unit in its place; the targets whose kind refuses it; the team whose map slots it uses; the core and
sub-core whose TLB levels serve it (none: the die's alone); the split, as wave and entry, whose probe stage holds the
translation (R409). -/
structure Want where
  rd : Bool := false
  wr : Bool := false
  ex : Bool := false
  store : Bool := false
  sup : Bool := false
  walker : Bool := false
  refused : List Nat := []
  team : Option Nat := none
  unit : Option (Nat × Nat) := none
  holder : Option (Nat × Nat) := none
deriving DecidableEq, Repr, Inhabited

/-- Every instruction, compact unit and event of spec/opcode_table.json. Waves are named by their uid, splits by
their split-table entry, outstanding accesses and texture requests by their id. The last rows stand out of the table's order:
Lean compiles values of the first 245 constructors with arguments only. -/
inductive Instr where
  /-- NOP (R185): Occupies an issue slot and applies its stall hint; it has no other effect. -/
  | nop (f : RF)
  /-- BRA (R174): Divides the split's running lanes into taken and fall-through sets; the .any and .all variants send every lane
  the same way. -/
  | bra (f : BF)
  /-- BRX (R176): Reads a 4-byte table entry per active lane and sends the lanes to the per-lane targets, dividing them by R175.
  -/
  | brx (f : BF)
  /-- CALL (R177): Writes the next header's address into the link register and branches the active set to the target. -/
  | call (f : BF)
  /-- RET (R177): Sends each active lane to the return address held in its register pair, dividing the lanes by R175. -/
  | ret (f : RF)
  /-- RJOIN (R150): Searches the rejoin records and either continues past the point, passes as a latecomer, or enters RJWAIT and
  joins the group G(x). -/
  | rjoin (f : BF)
  /-- FUSE (R181): Enters FFWAIT until every lane of the wave has arrived, then continues as one split. -/
  | fuse (f : RF)
  /-- EXIT (R182): The active lanes exit, leave MASK and count as arrived for groups and barriers. -/
  | exit (f : RF)
  /-- YIELD (R185): Clears the split's CUR bit. -/
  | yield (f : RF)
  /-- SLEEP (R186): Puts the split into SLEEP for n sub-core cycles. -/
  | sleep (f : IF)
  /-- BKPT (R178): Raises cause BKPT, subcause 0x01, for a non-empty active set. -/
  | bkpt (f : IF)
  /-- TRAP (R183): Raises cause TRAP, with bits [7:0] of the immediate as subcause, for a non-empty active set. -/
  | trap (f : IF)
  /-- HRET (R184): Waits for the whole handler, restores the trap frame and resumes at TRAPPC for .replay or past the
  instruction for .skip. -/
  | hret (f : RF)
  /-- MIGRATE (R449): After the forced fuse, checks the equivalence point and parks the wave in the migration queue, or refuses
  with cause MIGRATE. -/
  | migrate (f : RF)
  /-- SPAWN (R397): Checks depth and entry, then appends one thread record per active lane to the coach bin keyed by grid and
  entry. -/
  | spawn (f : RF) (x : SpawnX)
  /-- REGROUP (R191): Fuses the wave, waits for all PART waves, then re-sorts their lanes by key. -/
  | regroup (f : RF) (x : RegroupX)
  /-- BAR (R189): Arrives at a team barrier, then waits until the barrier's generation changes. -/
  | bar (f : RF)
  /-- BARARV (R189): Arrives at a team barrier, writes the generation token and continues. -/
  | bararv (f : RF)
  /-- BARWT (R189): Waits in BARWAIT until the barrier's generation differs from the token. -/
  | barwt (f : RF)
  /-- WAITMEM (R187): Each active lane polls its address until the value read differs from DATA. -/
  | waitmem (f : MF)
  /-- SRD (R193): Reads a special register into a v-register or an s-register. -/
  | srd (f : RF)
  /-- SWR (R194): Writes an s-register or inline value to a writable special register. -/
  | swr (f : RF)
  /-- PUBLISH (R436): Checks a staged Adeac object, then seals it into the code region as a new version and writes the status. -/
  | publish (f : RF) (x : PublishX)
  /-- TLBINV (R434): Drops the TLB entries of the selected kind on every die and waits until the drops, the older walks and the
  dependent accesses are complete. -/
  | tlbinv (f : RF)
  /-- CWB (R435): Writes every dirty copy of the range's lines back to home memory. -/
  | cwb (f : MF)
  /-- CINV (R435): Drops every instruction-fetch copy of the range's lines in the context. -/
  | cinv (f : MF)
  /-- VOTE (R197): Writes a ballot, any, all or eq mask of the active lanes' A values. -/
  | vote (f : RF)
  /-- KOP (R198): Performs a whole-register mask operation selected by TYPE. -/
  | kop (f : RF)
  /-- KPOPC (R199): Writes a total, exclusive or inclusive popcount of a mask per lane. -/
  | kpopc (f : RF)
  /-- KFFS (R199): Writes the index of the lowest or highest set bit of a mask. -/
  | kffs (f : RF)
  /-- RDFIRST (R200): Takes the value of the lowest active lane. -/
  | rdfirst (f : RF)
  /-- SHFL (R201): Reads A from a source lane chosen by idx, up, down or xor. -/
  | shfl (f : RF)
  /-- PERM (R202): Permutes A within each quad by an 8-bit pattern. -/
  | perm (f : RF)
  /-- COMPRESS (R203): Packs the selected lanes' values into the first active lanes. -/
  | compress (f : RF)
  /-- EXPAND (R203): Spreads the first active lanes' values into the selected lanes. -/
  | expand (f : RF)
  /-- REDUCE (R204): Reduces A over the active lanes in the fixed tree. -/
  | reduce (f : RF)
  /-- SCAN (R204): Computes an inclusive or exclusive prefix of A in the fixed tree. -/
  | scan (f : RF)
  /-- SEGRED (R204): Reduces A within segments given by mask B. -/
  | segred (f : RF)
  /-- SEGSCAN (R204): Computes a prefix of A within segments given by mask B. -/
  | segscan (f : RF)
  /-- VRDX (R205): Reads v[i], with a run-time index i, into D. -/
  | vrdx (f : RF)
  /-- VWRX (R205): Writes B into v[i], with a run-time index i. -/
  | vwrx (f : RF)
  /-- IADD (R212): Integer add, wrapping or saturating. -/
  | iadd (f : RF)
  /-- ISUB (R212): Integer subtract, wrapping or saturating. -/
  | isub (f : RF)
  /-- IADDC (R213): Add or subtract with the carry held in a mask register. -/
  | iaddc (f : RF)
  /-- IMUL (R214): Low half of the integer product, wrapping or saturating. -/
  | imul (f : RF)
  /-- IMULH (R214): High half of the exact integer product. -/
  | imulh (f : RF)
  /-- IMAD (R214): Integer multiply-add. -/
  | imad (f : RF)
  /-- IMADW (R215): 32-bit by 32-bit multiply added to a 64-bit value. -/
  | imadw (f : RF)
  /-- IMIN (R216): Integer minimum. -/
  | imin (f : RF)
  /-- IMAX (R216): Integer maximum. -/
  | imax (f : RF)
  /-- IABS (R217): Integer absolute value. -/
  | iabs (f : RF)
  /-- IAND (R218): Bitwise AND, optionally with B inverted. -/
  | iand (f : RF)
  /-- IOR (R218): Bitwise OR, optionally with B inverted. -/
  | ior (f : RF)
  /-- IXOR (R218): Bitwise XOR, optionally with B inverted. -/
  | ixor (f : RF)
  /-- SHL (R219): Logical shift left. -/
  | shl (f : RF)
  /-- SHR (R219): Logical shift right. -/
  | shr (f : RF)
  /-- SRA (R219): Arithmetic shift right. -/
  | sra (f : RF)
  /-- ROT (R220): Rotates left or right. -/
  | rot (f : RF)
  /-- BFE (R221): Extracts a bit field. -/
  | bfe (f : RF)
  /-- BFI (R221): Inserts a bit field. -/
  | bfi (f : RF)
  /-- POPC (R222): Counts the set bits. -/
  | popc (f : RF)
  /-- CLZ (R222): Counts the leading zero bits. -/
  | clz (f : RF)
  /-- BREV (R222): Reverses the bit order. -/
  | brev (f : RF)
  /-- ICMP (R223): Integer compare into a mask bit, combined by set, and or or, or into an s-register. -/
  | icmp (f : RF)
  /-- SEL (R224): Selects A or B by a mask bit or a scalar condition. -/
  | sel (f : RF)
  /-- MOV (R225): Copies the bits of A to D. -/
  | mov (f : RF)
  /-- MOVI (R226): Loads a 32-bit immediate, widened as TYPE gives. -/
  | movi (f : MoviF)
  /-- LEA (R227): Adds a scaled index to a 64-bit base, or subtracts it. -/
  | lea (f : RF)
  /-- ICVT (R228): Converts between integer types, wrapping or saturating. -/
  | icvt (f : RF)
  /-- IDIV (R230): Always raises ILLOP, subcause UNIMPL, on stepping A2, for emulation by a handler. -/
  | idiv (f : RF)
  /-- IREM (R230): Always raises ILLOP, subcause UNIMPL, on stepping A2, for emulation by a handler. -/
  | irem (f : RF)
  /-- FADD (R237): Floating-point add with one rounding. -/
  | fadd (f : RF)
  /-- FSUB (R237): Floating-point subtract with one rounding. -/
  | fsub (f : RF)
  /-- FMUL (R237): Floating-point multiply with one rounding. -/
  | fmul (f : RF)
  /-- FFMA (R237): Fused multiply-add with one rounding. -/
  | ffma (f : RF)
  /-- FMIN (R238): minimumNumber of A and B. -/
  | fmin (f : RF)
  /-- FMAX (R238): maximumNumber of A and B. -/
  | fmax (f : RF)
  /-- FCMP (R240): Floating-point compare into a mask bit or an s-register. -/
  | fcmp (f : RF)
  /-- FCLASS (R241): Writes a one-hot class of A. -/
  | fclass (f : RF)
  /-- FRND (R239): Rounds to an integral value under MOD. -/
  | frnd (f : RF)
  /-- FRCP (R243): Approximate reciprocal. -/
  | frcp (f : RF)
  /-- FRSQ (R243): Approximate reciprocal square root. -/
  | frsq (f : RF)
  /-- FSQRT (R242): Correctly rounded square root. -/
  | fsqrt (f : RF)
  /-- FDIV (R242): Correctly rounded division. -/
  | fdiv (f : RF)
  /-- FEX2 (R243): Approximate 2^x. -/
  | fex2 (f : RF)
  /-- FLG2 (R243): Approximate log2. -/
  | flg2 (f : RF)
  /-- FSIN (R243): Approximate sine. -/
  | fsin (f : RF)
  /-- FCOS (R243): Approximate cosine. -/
  | fcos (f : RF)
  /-- FCVT (R245): Converts between floating-point formats, optionally with stochastic rounding. -/
  | fcvt (f : RF)
  /-- FTOI (R246): Converts a floating-point value to an integer, saturating. -/
  | ftoi (f : RF)
  /-- ITOF (R247): Converts an integer to a floating-point value. -/
  | itof (f : RF)
  /-- QNT (R251): Quantises each fully active 16-lane group into one self-describing block. -/
  | qnt (f : RF)
  /-- DQNT (R252): Decodes each group's self-describing block into f32 registers. -/
  | dqnt (f : RF)
  /-- PACK (R248): Packs a group of f32 values into narrow elements of one register. -/
  | pack (f : RF)
  /-- UNPACK (R249): Unpacks narrow elements of one register into f32 registers. -/
  | unpack (f : RF)
  /-- LD (R263): Loads per lane into a long-latency destination. -/
  | ld (f : MF)
  /-- ST (R263): Stores per lane. -/
  | st (f : MF)
  /-- ATOM (R264): Atomic read-modify-write returning the old value. -/
  | atom (f : AF)
  /-- ATOMN (R264): Atomic read-modify-write with no return. -/
  | atomn (f : AF)
  /-- XADD (R268): Adds values exactly into a 64-byte exact-sum cell. -/
  | xadd (f : AF)
  /-- XRND (R269): Rounds an exact-sum cell to f32 or f64. -/
  | xrnd (f : MF)
  /-- COMPST (R271): Stores the active lanes' values to consecutive elements. -/
  | compst (f : MF)
  /-- EXPLD (R271): Loads consecutive elements into the active lanes. -/
  | expld (f : MF)
  /-- PREF (R273): Prefetches lines into L2 or the stash without faulting. -/
  | pref (f : MF)
  /-- FENCE (R274): Orders the split's accesses at a scope. -/
  | fence (f : MF)
  /-- SMAP (R278): Binds or unbinds a stash map slot to a global range. -/
  | smap (f : RF)
  /-- SFLUSH (R281): Writes back the dirty mapped stash lines of a range. -/
  | sflush (f : MF)
  /-- SINV (R282): Invalidates the mapped stash lines of a range and discards dirty data. -/
  | sinv (f : MF)
  /-- TLD (R288): Walks a tensor handle's levels and loads one element per lane. -/
  | tld (f : RF) (x : TensorX)
  /-- TST (R289): Walks a tensor handle's levels and stores one element per lane. -/
  | tst (f : RF) (x : TensorX)
  /-- HSET (R285): Writes one word of a tensor handle. -/
  | hset (f : RF)
  /-- HGET (R285): Reads one word of a tensor handle. -/
  | hget (f : RF)
  /-- QPUSH (R303): Pushes one entry to an operand queue from the execute slice. -/
  | qpush (f : RF)
  /-- QPOP (R304): Pops the head entry of a queue into a v-register and an optional VALID mask. -/
  | qpop (f : RF)
  /-- QSTAT (R306): Writes a queue's status word. -/
  | qstat (f : RF)
  /-- QLD (R300): Starts an affine or indexed Porter load stream into a queue. -/
  | qld (f : RF) (x : StreamX)
  /-- QST (R301): Starts an affine or indexed Porter store stream from a queue. -/
  | qst (f : RF) (x : StreamX)
  /-- PLAUNCH (R295): Binds queues and starts the wave's access thread. -/
  | plaunch (f : RF) (x : PlaunchX)
  /-- PSYNC (R308): Pairs the access-slice and execute-slice synchronisation points. -/
  | psync (f : RF)
  /-- QCLOSE (R307): Closes a queue. -/
  | qclose (f : RF)
  /-- CPY (R328): Tagged tensor copy of up to four dimensions. -/
  | cpy (f : RF) (x : CpyX)
  /-- CPYG (R329): Gathers rows chosen by the lanes into a dense tile. -/
  | cpyg (f : RF) (x : CpygX)
  /-- CPYH (R331): Fills a tile's halo ring from neighbours or by a border rule. -/
  | cpyh (f : RF) (x : CpyhX)
  /-- CPYS (R334): Decomposes a weight tile into structured terms, metadata and a residual list. -/
  | cpys (f : RF) (x : CpysX)
  /-- CPYQ (R332): Fills a matrix operand stream with row-block entries. -/
  | cpyq (f : RF) (x : CpyqX)
  /-- TWAIT (R338): Waits for the named copy tags to be SET, or raises a held copy fault. -/
  | twait (f : RF)
  /-- TFFR (R339): Writes the lowest SET tag, optionally freeing it. -/
  | tffr (f : RF)
  /-- TCLR (R340): Frees the named SET tags. -/
  | tclr (f : RF)
  /-- MMA (R360): Performs dense or SDB K steps into an accumulator tile. -/
  | mma (f : RF) (x : MmaX)
  /-- MMAS (R363): Performs structured sparse K steps into a tile. -/
  | mmas (f : RF) (x : MmaX)
  /-- MMAD (R362): Performs K steps with ds8 weights. -/
  | mmad (f : RF) (x : MmaX)
  /-- MZERO (R364): Zeroes the tiles named in a mask. -/
  | mzero (f : RF)
  /-- MRD (R365): Moves a tile to vector registers, optionally clearing it. -/
  | mrd (f : RF)
  /-- MWR (R365): Moves vector registers into a tile. -/
  | mwr (f : RF)
  /-- MRES (R366): Adds per-lane residual contributions to tile elements with one rounding. -/
  | mres (f : RF)
  /-- MSTAT (R367): Writes the matrix status, the stream counts or the metadata counts. -/
  | mstat (f : RF)
  /-- TEX (R475): Samples an image at an explicit LOD. -/
  | tex (f : RF) (x : TexX)
  /-- TEXG (R477): Samples an image with a LOD computed from quad gradients. -/
  | texg (f : RF) (x : TexX)
  /-- TEXQ (R478): Queries an image's size, level count or format. -/
  | texq (f : RF)
  /-- RAST (R461): Checks and queues a raster batch of paths or triangles. -/
  | rast (f : RF) (x : RastX)
  /-- MOV_I32_COMPACT (R57): Compact MOV.i32. -/
  | movI32Compact (f : CU)
  /-- IADD_I32_COMPACT_REG (R57): Compact IADD.i32 with a register operand B. -/
  | iaddI32CompactReg (f : CF)
  /-- IADD_I32_COMPACT_IMM (R57): Compact IADD.i32 with an inline operand B. -/
  | iaddI32CompactImm (f : CF)
  /-- ISUB_I32_COMPACT_REG (R57): Compact ISUB.i32 with a register operand B. -/
  | isubI32CompactReg (f : CF)
  /-- ISUB_I32_COMPACT_IMM (R57): Compact ISUB.i32 with an inline operand B. -/
  | isubI32CompactImm (f : CF)
  /-- IMUL_I32_COMPACT_REG (R57): Compact IMUL.i32 with a register operand B. -/
  | imulI32CompactReg (f : CF)
  /-- IMUL_I32_COMPACT_IMM (R57): Compact IMUL.i32 with an inline operand B. -/
  | imulI32CompactImm (f : CF)
  /-- IAND_I32_COMPACT_REG (R57): Compact IAND.i32 with a register operand B. -/
  | iandI32CompactReg (f : CF)
  /-- IAND_I32_COMPACT_IMM (R57): Compact IAND.i32 with an inline operand B. -/
  | iandI32CompactImm (f : CF)
  /-- IOR_I32_COMPACT (R57): Compact IOR.i32. -/
  | iorI32Compact (f : CF)
  /-- IXOR_I32_COMPACT (R57): Compact IXOR.i32. -/
  | ixorI32Compact (f : CF)
  /-- SHL_I32_COMPACT (R57): Compact SHL.i32 with an inline count. -/
  | shlI32Compact (f : CF)
  /-- SHR_N32_COMPACT (R57): Compact SHR.n32 with an inline count. -/
  | shrN32Compact (f : CF)
  /-- SRA_I32_COMPACT (R57): Compact SRA.i32 with an inline count. -/
  | sraI32Compact (f : CF)
  /-- IMIN_I32_COMPACT (R57): Compact IMIN.i32. -/
  | iminI32Compact (f : CF)
  /-- IMAX_I32_COMPACT (R57): Compact IMAX.i32. -/
  | imaxI32Compact (f : CF)
  /-- IADD_I64_COMPACT_REG (R57): Compact IADD.i64 with a register operand B. -/
  | iaddI64CompactReg (f : CF)
  /-- IADD_I64_COMPACT_IMM (R57): Compact IADD.i64 with an inline operand B. -/
  | iaddI64CompactImm (f : CF)
  /-- POPC_N32_COMPACT (R57): Compact POPC.n32. -/
  | popcN32Compact (f : CU)
  /-- CLZ_N32_COMPACT (R57): Compact CLZ.n32. -/
  | clzN32Compact (f : CU)
  /-- FADD_F32_COMPACT (R57): Compact FADD.f32.rne. -/
  | faddF32Compact (f : CF)
  /-- FSUB_F32_COMPACT (R57): Compact FSUB.f32.rne. -/
  | fsubF32Compact (f : CF)
  /-- FMUL_F32_COMPACT_REG (R57): Compact FMUL.f32.rne with a register operand B. -/
  | fmulF32CompactReg (f : CF)
  /-- FMUL_F32_COMPACT_IMM (R57): Compact FMUL.f32.rne with an inline operand B. -/
  | fmulF32CompactImm (f : CF)
  /-- FMIN_F32_COMPACT (R57): Compact FMIN.f32. -/
  | fminF32Compact (f : CF)
  /-- FMAX_F32_COMPACT (R57): Compact FMAX.f32. -/
  | fmaxF32Compact (f : CF)
  /-- FADD_F64_COMPACT (R57): Compact FADD.f64.rne. -/
  | faddF64Compact (f : CF)
  /-- FMUL_F64_COMPACT (R57): Compact FMUL.f64.rne. -/
  | fmulF64Compact (f : CF)
  /-- FADD_F16_COMPACT (R57): Compact FADD.f16.rne. -/
  | faddF16Compact (f : CF)
  /-- FMUL_F16_COMPACT (R57): Compact FMUL.f16.rne. -/
  | fmulF16Compact (f : CF)
  /-- FSQRT_F32_COMPACT (R57): Compact FSQRT.f32.rne. -/
  | fsqrtF32Compact (f : CU)
  /-- EXIT_COMPACT (R57): Compact EXIT. -/
  | exitCompact (k : BitVec 2)
  /-- RET_COMPACT (R57): Compact RET through v0:v1. -/
  | retCompact (k : BitVec 2)
  /-- SRD_COMPACT (R57): Compact SRD, with the special-register index taken from A7. -/
  | srdCompact (f : CU)
  /-- BLOCK_FETCH (R27): Fetches a block's header and words and checks marker, LEN, reserved bits and CHK before issue. -/
  | blockFetch (uid e : Nat)
  /-- REJOIN_TIMEOUT (R154): A member's DEADLINE expires, so G(x) completes with its present members and the other splits'
  records are marked LATE. -/
  | rejoinTimeout (uid e : Nat)
  /-- FORCED_FUSE (R156): A split reaching a whole-wave instruction or FUSE enters FFWAIT and the group F(p) forms. -/
  | forcedFuse (uid e : Nat)
  /-- STUCK_WAVE (R155): A stuck wave takes REJOINDEAD or CONVERGE SCATTER within 64 cycles. -/
  | stuckWave (uid : Nat)
  /-- MISS_SPLIT (R159): After 64 consecutive cycles waiting on partly empty sources, the full quads move into a new entry. -/
  | missSplit (uid e : Nat)
  /-- TRAP_DELIVERY (R165): The pending trap with the lowest TSEQ is delivered to its handler, or raises the halt line when
  fatal. -/
  | trapDelivery (uid : Nat)
  /-- HARDWARE_BREAKPOINT (R178): A split about to issue at a listed address raises BKPT, subcause 0x02, without issuing. -/
  | hardwareBreakpoint (uid e : Nat)
  /-- SLEEP_EXPIRY (R186): The sleep count reaches zero and the split becomes READY at the next instruction. -/
  | sleepExpiry (uid e : Nat)
  /-- WAITMEM_LATCH (R187): A lane's read returns a differing value and latches; when every lane has latched, the split becomes
  READY. -/
  | waitmemLatch (uid e lane : Nat)
  /-- WAVE_RELEASE (R182): After every engine acknowledges, the exited wave's slot, rows and scalar registers are freed. -/
  | waveRelease (uid : Nat)
  /-- LOAD_REPLY (R260): A long-latency reply writes its quad's lanes and marks the destination full. -/
  | loadReply (id quad : Nat)
  /-- PAGE_WALK (R405): The walker probes the hash tables for a TLB miss and returns a translation or a fault. -/
  | pageWalk (die ctx : Nat) (va : W64) (want : Want)
  /-- PTE_BUSY_RETRY (R405): A walk that found BUSY = 1 reads the buckets again after 64 fabric cycles. -/
  | pteBusyRetry (die ctx : Nat) (va : W64) (want : Want)
  /-- ATOMIC_AT_HOME (R117): A near-memory atomic unit, stash bank or host performs an atomic exactly once at the home. -/
  | atomicAtHome (id : Nat)
  /-- QLD_STREAM_ENTRY (R300): A Porter load stream forms one queue entry once a slot is free. -/
  | qldStreamEntry (uid st : Nat)
  /-- QST_STREAM_ENTRY (R301): A Porter store stream drains one queue entry to memory. -/
  | qstStreamEntry (uid st : Nat)
  /-- PSYNC_RELEASE (R308): The access-slice PSYNC is released once the wave's matching PSYNC and its earlier accesses and QST
  streams are done. -/
  | psyncRelease (uid : Nat)
  /-- QUEUE_AUTO_CLOSE (R307): After access EXIT, a Porter-produced queue closes once its streams have ended. -/
  | queueAutoClose (uid q : Nat)
  /-- COPY_CHUNK (R345): The Courier reads one chunk and, once all reads have returned and there is room, writes it. -/
  | copyChunk (die core tag : Nat)
  /-- COPY_COMPLETE (R128): The copy's writes are visible, its tag becomes SET and any signal is decremented. -/
  | copyComplete (die core tag : Nat)
  /-- K_STEP (R358): The matrix unit applies one K step once all its entries are present, round-robin among waves. -/
  | kStep (die core sub : Nat)
  /-- QUEUE_FETCH (R376): The queue processor reads a ring slot and checks the packet. -/
  | queueFetch (die q : Nat)
  /-- SEQWAIT_REREAD (R376): A slot whose SEQ does not match is read again every 64 fabric cycles. -/
  | seqwaitReread (die q : Nat)
  /-- NOP_PACKET (R381): A NOP packet starts and completes at once. -/
  | nopPacket (die q : Nat)
  /-- DISPATCH (R388): Creates a grid and queues its teams for placement. -/
  | dispatch (die q : Nat)
  /-- BARRIER (R383): Waits on up to five signals and completes when they are satisfied. -/
  | barrier (die q : Nat)
  /-- COPY (R391): Runs a CPY on a Courier under a dispatcher tag. -/
  | copy (die q : Nat)
  /-- SIGNAL (R392): Stores to or adds to a signal and optionally sends MSI-X. -/
  | signal (die q : Nat)
  /-- WAIT_LIST_READ (R383): Reads the unlatched wait entries, latches the zeros and aborts on a negative value. -/
  | waitListRead (die q : Nat)
  /-- PACKET_START (R381): A satisfied packet acquires at ACQ, starts and advances RIDX. -/
  | packetStart (die q : Nat)
  /-- TEAM_PLACEMENT (R388): Places a waiting team on a core with its stash, slots and rows, and sets its launch state. -/
  | teamPlacement (die : Nat)
  /-- TEAM_RETIRE (R322): A team retires once its tags have left BUSY and FAULT, and its SET tags become FREE. -/
  | teamRetire (team : Nat)
  /-- GRID_RETIRE (R390): A grid retires when its waves, tags, bins and nested grids are done. -/
  | gridRetire (grid : Nat)
  /-- BIN_TIMER_EXPIRY (R398): The bin's oldest record has waited TIMER × 0.25 µs, which makes the bin eligible. -/
  | binTimerExpiry (die bin : Nat)
  /-- BIN_WAVE_PLACEMENT (R399): Chooses an eligible bin and releases its oldest records as one wave. -/
  | binWavePlacement (die : Nat)
  /-- HFQ_POST (R423): Posts a fault to the host fault queue and holds the split. -/
  | hfqPost (uid e : Nat)
  /-- HFQ_FULL_RETRY (R423): While the ring is full, RIDX is read again every 1 µs. -/
  | hfqFullRetry (uid e : Nat)
  /-- HFQ_COMPLETION_POLL (R423): Reads the completion word every 256 fabric cycles and acts on a nonzero value. -/
  | hfqCompletionPoll (uid e : Nat)
  /-- ENGINE_STOP_ACK (R425): An engine reaches its stop unit and acknowledges to its die's collector. -/
  | engineStopAck (ctx : Nat) (eng : Engine)
  /-- HALT_COMPLETE (R424): The last die's collector reports and the context becomes HALTED. -/
  | haltComplete (ctx : Nat)
  /-- OWED_REPLY_WRITE (R432): A reply owed at halt is written into the register image wherever it lies. -/
  | owedReplyWrite (id : Nat)
  /-- MIGRATION_MOVE (R452): A team ready to move is placed on the other class, its stash is copied and the maps are applied at
  commit. -/
  | migrationMove (team : Nat)
  /-- MIGRATE_LIMIT_EXPIRY (R453): A parked wave's limit expires, so it resumes with D = 0 and the move is abandoned. -/
  | migrateLimitExpiry (uid : Nat)
  /-- RAST_PHASE1 (R464): Reads and flattens the batch's items into pieces, ending with FAULT or LIMIT on error. -/
  | rastPhase1 (die : Nat)
  /-- RAST_TILE (R464): Accumulates area and cover for one 64 × 64 tile. -/
  | rastTile (die : Nat)
  /-- QUAD_EMIT (R465): Writes four fragment records for one covered quad once the die has room. -/
  | quadEmit (die : Nat)
  /-- RAST_BATCH_COMPLETE (R467): Adds the batch totals to the statistics block and marks D full. -/
  | rastBatchComplete (die : Nat)
  /-- TEXTURE_COMPLETE (R473): The texture unit reads the texels, filters them and writes D to D + 3. -/
  | textureComplete (id : Nat)
  /-- RESTORE (R431): A CCTL RESTORE command places a context's saved images back on its cores and restarts it. -/
  | restore (ctx : Nat)
  /-- STORE_PERFORMED (R124): A plain store or other write reaches its home and becomes visible within finite time. -/
  | storePerformed (id : Nat)
  /-- PUBLISH_COMPLETE (R436): PUBLISH finishes its checks, or receives the host's verdict under ASSIST.PUBV = 1, and then seals
  the object and writes D and STAT. -/
  | publishComplete (id : Nat)
  /-- DIRECTORY_RECALL (R107): An access to a line owned or held dirty elsewhere recalls it, writes it back and then performs. -/
  | directoryRecall (line : Nat)
  /-- UNCORRECTABLE_ERROR (R262): An uncorrectable error zeroes the bytes, rewrites the line, counts and logs, or is fatal in
  strict mode. -/
  | uncorrectableError (line : Nat) (id : Nat)
  /-- CORRECTED_ERROR (R262): A corrected error is counted and rate-limited into the log. -/
  | correctedError (line : Nat)
  /-- CDESC_WRITE (R482): A write with V = 1 registers a context. -/
  | cdescWrite (ctx : Nat) (val : W64)
  /-- HALT (R424): A CCTL HALT command raises the context's halt line. -/
  | halt (ctx : Nat)
  /-- PREEMPT (R429): A CCTL PREEMPT command halts the context and swaps it out, optionally bringing in INC. -/
  | preempt (ctx : Nat) (inc : Option Nat)
  /-- RESUME (R428): A CCTL RESUME command restarts a HALTED context from its records. -/
  | resume (ctx : Nat)
  /-- STOPWAVE (R179): A CCTL STOPWAVE command stops one wave and writes its stop record. -/
  | stopwave (wsel : BitVec 18) (ctx : Nat)
  /-- RESUMEWAVE (R179): A CCTL RESUMEWAVE command clears every STOP of one wave. -/
  | resumewave (wsel : BitVec 18) (ctx : Nat)
  /-- DOORBELL (R375): An 8-byte doorbell write raises the queue's fetch limit. -/
  | doorbell (slot : Nat) (val : W64) (size : Nat)
  /-- QCTX_ATTACH (R483): Attaches a queue to a context and reads its descriptor. -/
  | qctxAttach (slot ctx : Nat)
  /-- QCTX_DETACH (R483): Detaches a DISABLED queue. -/
  | qctxDetach (slot : Nat)
  /-- KICK (R483): Makes the queue processor read CTRL again and apply EN. -/
  | kick (slot : Nat)
  /-- REGISTER_WRITE (R481): Writes to a BAR register with no behaviour of its own, such as WIN, QDESC or MBBUF. -/
  | registerWrite (bar off : Nat) (data : List Byte)
  /-- BAR2_ACCESS (R486): A host access through the memory window is translated and performed as a host-agent access. -/
  | bar2Access (io off : Nat) (data : Option (List Byte)) (len : Nat)
  /-- POWER_GOOD (R501): A cold reset runs bring-up: ROM, firmware verify, self-tests, memory training and discovery. -/
  | powerGood (tests : BringUp)
  /-- SENSOR_SAMPLE (R494): Every 100 µs the Innkeeper reads its sensors and adjusts operating points. -/
  | sensorSample (r : Readings)
  /-- SECURITY_ALARM (R499): A tamper, glitch, hash or debug event halts every context, sets ALARM and may erase the keys. -/
  | securityAlarm (why : AlarmCause)
  /-- FORCED_UNLOAD (R438): A forced unload of a code version raises the halt line, with reason UNLOAD, of every context with a
  resident wave bound to the version, and frees the version at once. -/
  | forcedUnload (ctx ver : Nat)
  /-- VERSION_LOAD (R437): The loader loads an object, or a host or debugger patch writes a new version, and the version gets a
  version ID and its erratum bits. -/
  | versionLoad (ctx : Nat) (va : W64) (patches : Option Nat)
  /-- PEER_WRITE (R492): Writes a peer entry and makes the Innkeeper recompute the DIST tables. -/
  | peerWrite (p : Nat) (val : W64)
  /-- FLIT_DATA (R489): A data flit is accepted in SEQ order and its slots are performed once. -/
  | flitData (link : Nat) (flit : List Byte)
  /-- FLIT_ACK (R489): An ack flit retires the sender's acknowledged flits. -/
  | flitAck (link : Nat) (flit : List Byte)
  /-- FLIT_NAK (R489): A nak makes the sender replay from the first unacknowledged flit. -/
  | flitNak (link : Nat) (flit : List Byte)
  /-- FLIT_DISCOVERY (R492): A discovery flit exchanges module IDs and switch information. -/
  | flitDiscovery (link : Nat) (flit : List Byte)
  /-- LINK_DOWN (R489): After 16 consecutive failed replays the link goes down and its requests are rerouted. -/
  | linkDown (link : Nat)
  /-- FLR_SECONDARY (R501): An FLR of a function on I/O dies 1 to 3 clears V of its window entries. -/
  | flrSecondary (io : Nat)
  /-- NOP_COMPACT (R57): Compact L-encoding NOP. -/
  | nopCompact
  /-- FUSE_COMPACT (R57): Compact FUSE. -/
  | fuseCompact
  /-- YIELD_COMPACT (R57): Compact YIELD. -/
  | yieldCompact
  /-- READLOG (R495): Mailbox command returning error-log entries. -/
  | readlog
  /-- CLRCNT (R496): Mailbox command clearing every counter. -/
  | clrcnt
  /-- POWERCAP (R494): Mailbox command setting the module power limit. -/
  | powercap
  /-- SENSORS (R494): Mailbox command returning the sensor readings. -/
  | sensors
  /-- FWSTAGE (R497): Mailbox command writing an image chunk to the inactive slot. -/
  | fwstage
  /-- FWCOMMIT (R497): Mailbox command verifying the staged image and switching the boot pointer. -/
  | fwcommit
  /-- ATTEST (R498): Mailbox command returning a signed attestation report. -/
  | attest
  /-- TOPO (R492): Mailbox command returning the discovered modules and switches. -/
  | topo
  /-- RESET (R501): Mailbox command starting a warm reset. -/
  | reset
  /-- PCIE_HOT_RESET (R501): A PCIe hot reset or FLR of function 0 starts a warm reset. -/
  | pcieHotReset
  /-- POWER_LOSS (R502): Loss of power, including during FWCOMMIT, leaves the boot pointer at the old slot or the new one. -/
  | powerLoss
deriving DecidableEq, Repr, Inhabited

end Sys2Proof
end

