-- ==== Sys2Proof/Machine/Forms.lean ====
section
/-! DEFINITION. The operand forms of every instruction: which classes, registers, TYPE and MOD values each field
accepts (R37 to R43, R53 and the encoding table of each chapter), and the registers an instruction names. -/
namespace Sys2Proof

/-- A register of a wave or of an access thread. -/
inductive Reg where
  | v (n : Nat)
  | s (n : Nat)
  | k (n : Nat)
deriving DecidableEq, Repr, Inhabited

/-- The ten bits of an operand field (Table 2.5). -/
def encOperand : Operand → BitVec 10
  | .v n => 0#1 ++ n
  | .s n => 0b100#3 ++ n
  | .imm n => 0b101#3 ++ n
  | .spec n => 0b110#3 ++ n
  | .mask n => 0b111000#6 ++ n
  | .bad n => 0b111#3 ++ n

/-- What a source field accepts: operand classes, the number of consecutive registers it names and the multiple its
index shall be of (R41, R233), and the range of an inline integer. `ctl` is a control field, checked on its own. -/
structure Slot where
  v : Bool := false
  s : Bool := false
  i : Bool := false
  m : Bool := false
  sp : Bool := false
  ctl : Bool := false
  n : Nat := 1
  al : Nat := 1
  lo : Int := -64
  hi : Int := 63
deriving DecidableEq, Repr, Inhabited

namespace Slot
/-- A field that shall be zero. -/
def none : Slot := { }
/-- A v-register, s-register or inline integer of `n` registers (R208, R233). -/
def gen (n : Nat) : Slot := { v := true, s := true, i := true, n := n, al := n }
/-- A v-register or s-register of `n` registers, index a multiple of `n`. -/
def vs (n : Nat) : Slot := { v := true, s := true, n := n, al := n }
/-- A v-register group. -/
def vr (n : Nat) : Slot := { v := true, n := n, al := n }
/-- An s-register group. -/
def sr (n : Nat) : Slot := { s := true, n := n, al := n }
/-- An s-register or an inline integer in a range. -/
def si (lo hi : Int) : Slot := { s := true, i := true, lo := lo, hi := hi }
/-- A mask register. -/
def maskR : Slot := { m := true }
/-- A special register. -/
def special : Slot := { sp := true }
/-- A control field. -/
def control : Slot := { ctl := true }
end Slot

/-- What the D field names. -/
inductive Dst where
  | none
  | reg (n al : Nat)
  | mask
  | maskOrS
  | ctl
deriving DecidableEq, Repr, Inhabited

/-- Which scalar forms an instruction has: S = 0 only, S = 1 only, or both. -/
inductive Scal where
  | vec | sca | both
deriving DecidableEq, Repr, Inhabited

/-- The form of one R-format instruction: the acceptance of each field. TYPE and MOD values are listed as bit sets. -/
structure Row where
  scal : Scal := .vec
  pred : Bool := false
  stall : Bool := true
  d : Dst := .none
  a : Slot := .none
  b : Slot := .none
  c : Slot := .none
  types : Nat := 1
  mods : Nat := 1
  /-- the EP bits that may be set, bit 2 for A, bit 1 for B, bit 0 for C -/
  ep : Nat := 7
  /-- further static conditions of the instruction -/
  extra : Bool := true
  /-- registers read that the extension word names -/
  xsrc : List Reg := []
  /-- registers written that the extension word names -/
  xdst : List Reg := []
deriving DecidableEq, Repr, Inhabited

/-- The registers of a 64-bit or narrower TYPE (R41): two for i64, n64 and f64. -/
def tyRegs (ty : BitVec 4) : Nat := if ty == 3#4 || ty == 7#4 || ty == 11#4 then 2 else 1

/-- The width of a TYPE in bits (Table 2.6). -/
def tyBits (ty : BitVec 4) : Nat :=
  match ty.toNat with
  | 0 => 8 | 1 => 16 | 2 => 32 | 3 => 64 | 4 => 8 | 5 => 16 | 6 => 32 | 7 => 64
  | 8 => 16 | 9 => 16 | 10 => 32 | 11 => 64 | 12 => 8 | 13 => 8 | 14 => 4 | _ => 8

/-- TYPE sets: integer, floating-point of Table 8.1, REDUCE and its like, 32 or 64 bits (R195). -/
def tyInt : Nat := 0x00FF
def tyFl : Nat := 0x0F00
def tyTree : Nat := 0x0FCC
def tyLane : Nat := 0x000C
def ty64s : Nat := 0x00CC

/-- Is a code in a bit set? -/
def inSet (set : Nat) (x : Nat) : Bool := set.testBit x

/-- Is SCOPE one of the values of R35? -/
def scopeOk (x : Nat) : Bool := x ≤ 18 || x == 31

/-- The ten bits of a control operand. -/
def ctlOf (o : Operand) : Nat := (encOperand o).toNat

/-- The lane-control field of R195: reserved bits clear, OP and X only where used, W only where accepted. -/
def laneCtl (c : Operand) (w x : Bool) (ops : Nat) : Bool :=
  let n := ctlOf c
  n < 32 && (w || !bitAt n 0) && (x || !bitAt n 4) && inSet ops (bitsOf n 3 1)

/-- The set of AOP-like OP codes a lane tree accepts: `.and`, `.or` and `.xor` only with integer TYPE (R204). -/
def treeOps (ty : BitVec 4) : Nat := if ty.toNat ≥ 8 then 0x0F else 0x7F

/-- Is `i` an assigned special register (Table 2.9)? -/
def specAssigned (i : Nat) : Bool := i ≤ 0x1C
/-- Does SWR reach it: access RW (MODE, SEED) or H (TRAPPC)? -/
def specWritable (i : Nat) : Bool := i == 0x0C || i == 0x0D || i == 0x11 || i == 0x12
/-- The special-register index of an operand. -/
def specIdx : Operand → Nat
  | .spec n => n.toNat
  | _ => 0x7F

/-- Elements per 32-bit register of a narrow TYPE: the group size of PACK and UNPACK (R248). -/
def packN (ty : BitVec 4) : Nat :=
  match ty.toNat with
  | 8 => 2 | 9 => 2 | 14 => 8 | _ => 4

/-- The group size of QNT for a target FMT (R251). -/
def qntN (fmt : Nat) : Nat := if fmt == 5 || fmt == 6 then 8 else if fmt == 7 then 2 else 4
/-- The group size of DQNT for G (R252). -/
def dqntN (g : Nat) : Nat := if g == 1 then 2 else if g == 2 then 4 else 8

/-- The registers named by the common Courier fields (Table 11.3). -/
def copySrc (x : CopyX) : List Reg := if x.sig then [.s x.sreg.toNat, .s (x.sreg.toNat + 1)] else []
/-- The rules on the common Courier fields: SCOPE and SREG zero when SIG = 0, SREG even, SCOPE assigned (R324). -/
def copyXOk (x : CopyX) : Bool :=
  if x.sig then scopeOk x.scope.toNat && x.sreg.toNat % 2 == 0 else x.scope == 0#5 && x.sreg == 0#7

/-- A Courier command's first word (R323): a group of `n` s-registers at an even A. -/
def courierRow (n : Nat) (extra : Bool) (xs : List Reg) : Row :=
  { scal := .sca, d := .reg 1 1, a := { s := true, n := n, al := 2 }, ep := 4, extra := extra, xsrc := xs }

/-- MMA, MMAS and MMAD operand types (R355). -/
def mmaTypesOk (op : Nat) (x : MmaX) : Bool :=
  let a := x.aty.toNat
  let b := x.bty.toNat
  let n8 := inSet 0x3011
  if op == 0 then
    if x.sdb then a == 0 && b == 0
    else (n8 a && n8 b) || (inSet 0x0300 a && inSet 0x0300 b)
  else if op == 2 then
    if x.sdb then a == 0 && b == 0 else n8 a && b == 15
  else !x.sdb && n8 a && inSet 0x3001 b

/-- The fields of Table 12.2 that shall be zero for an instruction. -/
def mmaFieldsOk (op : Nat) (x : MmaX) : Bool :=
  if op == 1 then x.pat != 3#2 else x.fm == 0#2 && x.pat == 0#2 && x.terms == 0#2

/-- The stream extension word (Table 10.3). -/
def streamOk (x : StreamX) : Bool :=
  inSet 0x1E7 x.mty.toNat &&
  (if x.mode == 0#2 then x.sh == 0#3 && x.qi == 0#4 else x.mode == 1#2 && x.ndim == 0#2)

/-- QLD and QST (R298): A is the first of the descriptor group G, all at or below s31; B the entry count. -/
def streamRow (f : RF) (x : StreamX) : Row :=
  let n := if x.mode == 0#2 then 2 + 2 * (x.ndim.toNat + 1) else 2
  { stall := false, a := { s := true, n := n, al := 2 }, ep := 0,
    b := if x.mode == 0#2 then .none else .si 0 63,
    extra := streamOk x && (match f.a with | .s r => r.toNat + n ≤ 32 | _ => false) &&
      (match f.b with | .s r => r.toNat < 32 | _ => true) }

/-- A floating-point row with rounding in MOD. -/
def rowF (d : Nat) (a b c : Slot) (types mods : Nat) : Row :=
  { scal := .both, pred := true, d := .reg d d, a := a, b := b, c := c, types := types, mods := mods }

/-- The row of each R-format instruction, evaluated at its fields; `none` for the other formats, compact units and
events. Chapters 6 to 16. -/
def rowOf : Instr → Option (RF × Row)
  | .nop f => some (f, { })
  | .ret f => some (f, { pred := true, a := .vs 2 })
  | .fuse f => some (f, { stall := false })
  | .exit f => some (f, { stall := false, pred := true })
  | .yield f => some (f, { stall := false })
  | .hret f => some (f, { stall := false, mods := 3 })
  | .migrate f => some (f, { scal := .sca, d := .reg 1 1, a := .si (-64) 63, mods := 3, ep := 4 })
  | .spawn f x => some (f,
      { pred := true, a := .vs 2,
        b := { v := true, s := true, n := 4 * (x.psz.toNat + 1) } })
  | .regroup f _ => some (f, { d := .reg 1 1, a := .gen 1, b := .maskR, types := 0x44 })
  | .bar f => some (f, { stall := false, a := .si 0 15, b := .si 0 16 })
  | .bararv f => some (f, { stall := false, scal := .sca, d := .reg 1 1, a := .si 0 15, b := .si 0 16 })
  | .barwt f => some (f, { stall := false, a := .si 0 15, b := .sr 1 })
  | .srd f => some (f,
      { scal := .both, pred := true, d := .reg 1 1, a := .special,
        extra := !(f.sc && specIdx f.a == 0) })
  | .swr f => some (f,
      { scal := .sca, stall := false, a := .special, b := .si (-64) 63,
        extra := specWritable (specIdx f.a) })
  | .publish f x => some (f,
      { scal := .sca, d := .reg 2 2, a := .sr 2, b := .sr 1,
        extra := x.stat.toNat != f.d.toNat && x.stat.toNat != f.d.toNat + 1, xdst := [.s x.stat.toNat] })
  | .tlbinv f => some (f,
      { scal := .sca, types := 0xF,
        a := if f.ty.toNat ≤ 1 then .sr 2 else .none, b := if f.ty == 1#4 then .sr 1 else .none })
  | .vote f => some (f,
      { pred := true, d := .mask, a := .vs (tyRegs f.ty), c := .control, types := tyLane,
        mods := 0xF, extra := laneCtl f.c true false 1 })
  | .kop f => some (f,
      { d := .mask, types := 0xFF,
        a := if f.ty.toNat ≤ 5 then .maskR else if f.ty == 6#4 then .sr 2 else .none,
        b := if f.ty.toNat ≤ 3 then .maskR else .none })
  | .kpopc f => some (f,
      { pred := true, d := .reg 1 1, a := .maskR, b := .maskR, c := .control, mods := 7,
        extra := laneCtl f.c true false 1 })
  | .kffs f => some (f,
      { pred := true, d := .reg 1 1, a := .maskR, b := .maskR, c := .control, mods := 3,
        extra := laneCtl f.c true false 1 })
  | .rdfirst f => some (f,
      { scal := .both, pred := true, d := .reg (tyRegs f.ty) (tyRegs f.ty),
        a := .vr (tyRegs f.ty), c := .control, types := tyLane, extra := laneCtl f.c true false 1 })
  | .shfl f => some (f,
      { pred := true, d := .reg (tyRegs f.ty) (tyRegs f.ty), a := .vr (tyRegs f.ty), b := .gen 1,
        c := .control, types := tyLane, mods := 0xF, extra := laneCtl f.c true false 1 })
  | .perm f => some (f,
      { pred := true, d := .reg (tyRegs f.ty) (tyRegs f.ty), a := .vr (tyRegs f.ty),
        b := .si (-64) 63, c := .control, types := tyLane, extra := laneCtl f.c true false 1 })
  | .compress f => some (f,
      { pred := true, d := .reg (tyRegs f.ty) (tyRegs f.ty), a := .vr (tyRegs f.ty), b := .maskR,
        c := .control, types := tyLane, extra := laneCtl f.c true false 1 })
  | .expand f => some (f,
      { pred := true, d := .reg (tyRegs f.ty) (tyRegs f.ty), a := .vr (tyRegs f.ty), b := .maskR,
        c := .control, types := tyLane, extra := laneCtl f.c true false 1 })
  | .reduce f => some (f,
      { pred := true, d := .reg (tyRegs f.ty) (tyRegs f.ty), a := .vr (tyRegs f.ty),
        c := .control, types := tyTree, mods := if f.ty.toNat ≥ 8 then 0xF else 1,
        extra := laneCtl f.c true false (treeOps f.ty) })
  | .scan f => some (f,
      { pred := true, d := .reg (tyRegs f.ty) (tyRegs f.ty), a := .vr (tyRegs f.ty),
        c := .control, types := tyTree, mods := if f.ty.toNat ≥ 8 then 0xF else 1,
        extra := laneCtl f.c true true (treeOps f.ty) })
  | .segred f => some (f,
      { pred := true, d := .reg (tyRegs f.ty) (tyRegs f.ty), a := .vr (tyRegs f.ty), b := .maskR,
        c := .control, types := tyTree, mods := if f.ty.toNat ≥ 8 then 0xF else 1,
        extra := laneCtl f.c true false (treeOps f.ty) })
  | .segscan f => some (f,
      { pred := true, d := .reg (tyRegs f.ty) (tyRegs f.ty), a := .vr (tyRegs f.ty), b := .maskR,
        c := .control, types := tyTree, mods := if f.ty.toNat ≥ 8 then 0xF else 1,
        extra := laneCtl f.c true true (treeOps f.ty) })
  | .vrdx f => some (f,
      { pred := true, d := .reg (tyRegs f.ty) (tyRegs f.ty),
        a := { v := true, s := true, i := true, lo := 0 }, types := tyLane, ep := 4 })
  | .vwrx f => some (f,
      { pred := true, a := { v := true, s := true, i := true, lo := 0 }, b := .vs (tyRegs f.ty),
        types := tyLane, ep := 6 })
  | .iadd f => some (f, rowF (tyRegs f.ty) (.gen (tyRegs f.ty)) (.gen (tyRegs f.ty)) .none tyInt 3)
  | .isub f => some (f, rowF (tyRegs f.ty) (.gen (tyRegs f.ty)) (.gen (tyRegs f.ty)) .none tyInt 3)
  | .iaddc f => some (f,
      { pred := true, d := .reg (tyRegs f.ty) (tyRegs f.ty), a := .gen (tyRegs f.ty),
        b := .gen (tyRegs f.ty), c := .maskR, types := 0xC0, mods := 3 })
  | .imul f => some (f, rowF (tyRegs f.ty) (.gen (tyRegs f.ty)) (.gen (tyRegs f.ty)) .none tyInt 3)
  | .imulh f => some (f, rowF (tyRegs f.ty) (.gen (tyRegs f.ty)) (.gen (tyRegs f.ty)) .none tyInt 1)
  | .imad f => some (f, rowF (tyRegs f.ty) (.gen (tyRegs f.ty)) (.gen (tyRegs f.ty)) (.gen (tyRegs f.ty)) tyInt 3)
  | .imadw f => some (f, rowF 2 (.gen 1) (.gen 1) (.gen 2) 0x44 1)
  | .imin f => some (f, rowF (tyRegs f.ty) (.gen (tyRegs f.ty)) (.gen (tyRegs f.ty)) .none tyInt 1)
  | .imax f => some (f, rowF (tyRegs f.ty) (.gen (tyRegs f.ty)) (.gen (tyRegs f.ty)) .none tyInt 1)
  | .iabs f => some (f, rowF (tyRegs f.ty) (.gen (tyRegs f.ty)) .none .none 0xF 3)
  | .iand f => some (f, rowF (tyRegs f.ty) (.gen (tyRegs f.ty)) (.gen (tyRegs f.ty)) .none tyInt 3)
  | .ior f => some (f, rowF (tyRegs f.ty) (.gen (tyRegs f.ty)) (.gen (tyRegs f.ty)) .none tyInt 3)
  | .ixor f => some (f, rowF (tyRegs f.ty) (.gen (tyRegs f.ty)) (.gen (tyRegs f.ty)) .none tyInt 3)
  | .shl f => some (f, rowF (tyRegs f.ty) (.gen (tyRegs f.ty)) (.gen 1) .none tyInt 3)
  | .shr f => some (f, rowF (tyRegs f.ty) (.gen (tyRegs f.ty)) (.gen 1) .none tyInt 3)
  | .sra f => some (f, rowF (tyRegs f.ty) (.gen (tyRegs f.ty)) (.gen 1) .none tyInt 3)
  | .rot f => some (f, rowF (tyRegs f.ty) (.gen (tyRegs f.ty)) (.gen 1) .none tyInt 3)
  | .bfe f => some (f, rowF (tyRegs f.ty) (.gen (tyRegs f.ty)) (.gen 1) .none tyInt 1)
  | .bfi f => some (f, rowF (tyRegs f.ty) (.gen (tyRegs f.ty)) (.gen (tyRegs f.ty)) (.gen 1) tyInt 1)
  | .popc f => some (f, rowF 1 (.gen (tyRegs f.ty)) .none .none tyInt 1)
  | .clz f => some (f, rowF 1 (.gen (tyRegs f.ty)) .none .none tyInt 1)
  | .brev f => some (f, rowF (tyRegs f.ty) (.gen (tyRegs f.ty)) .none .none tyInt 1)
  | .icmp f => some (f,
      { scal := .both, pred := true, d := .maskOrS, a := .gen (tyRegs f.ty), b := .gen (tyRegs f.ty),
        c := .control, types := tyInt, mods := if f.sc then 1 else 7, extra := ctlOf f.c ≤ 5 })
  | .sel f => some (f,
      { scal := .both, pred := true, d := .reg (tyRegs f.ty) (tyRegs f.ty), a := .gen (tyRegs f.ty),
        b := .gen (tyRegs f.ty), c := if f.sc then .si (-64) 63 else .maskR, types := 0xBFFF })
  | .mov f => some (f, rowF (tyRegs f.ty) (.gen (tyRegs f.ty)) .none .none 0xBFFF 1)
  | .lea f => some (f,
      { scal := .both, pred := true, d := .reg 2 2, a := .gen 2, b := .gen (tyRegs f.ty), c := .control,
        types := ty64s, mods := 3, extra := ctlOf f.c ≤ 7 })
  | .icvt f => some (f,
      { scal := .both, pred := true, d := .reg (tyRegs f.ty) (tyRegs f.ty),
        a := .gen (tyRegs (BitVec.ofNat 4 (ctlOf f.c))), c := .control, types := tyInt, mods := 3, extra := ctlOf f.c ≤ 7 })
  | .idiv f => some (f, rowF (tyRegs f.ty) (.gen (tyRegs f.ty)) (.gen (tyRegs f.ty)) .none ty64s 1)
  | .irem f => some (f, rowF (tyRegs f.ty) (.gen (tyRegs f.ty)) (.gen (tyRegs f.ty)) .none ty64s 1)
  | .fadd f => some (f, rowF (tyRegs f.ty) (.gen (tyRegs f.ty)) (.gen (tyRegs f.ty)) .none tyFl 0xF)
  | .fsub f => some (f, rowF (tyRegs f.ty) (.gen (tyRegs f.ty)) (.gen (tyRegs f.ty)) .none tyFl 0xF)
  | .fmul f => some (f, rowF (tyRegs f.ty) (.gen (tyRegs f.ty)) (.gen (tyRegs f.ty)) .none tyFl 0xF)
  | .ffma f => some (f, rowF (tyRegs f.ty) (.gen (tyRegs f.ty)) (.gen (tyRegs f.ty)) (.gen (tyRegs f.ty)) tyFl 0xF)
  | .fmin f => some (f, rowF (tyRegs f.ty) (.gen (tyRegs f.ty)) (.gen (tyRegs f.ty)) .none tyFl 1)
  | .fmax f => some (f, rowF (tyRegs f.ty) (.gen (tyRegs f.ty)) (.gen (tyRegs f.ty)) .none tyFl 1)
  | .fcmp f => some (f,
      { scal := .both, pred := true, d := .maskOrS, a := .gen (tyRegs f.ty), b := .gen (tyRegs f.ty),
        c := .control, types := tyFl, mods := if f.sc then 1 else 7, extra := ctlOf f.c ≤ 7 })
  | .fclass f => some (f, rowF 1 (.gen (tyRegs f.ty)) .none .none 0x7F00 1)
  | .frnd f => some (f, rowF (tyRegs f.ty) (.gen (tyRegs f.ty)) .none .none tyFl 0xF)
  | .frcp f => some (f, rowF (tyRegs f.ty) (.gen (tyRegs f.ty)) .none .none 0xC00 1)
  | .frsq f => some (f, rowF (tyRegs f.ty) (.gen (tyRegs f.ty)) .none .none 0xC00 1)
  | .fsqrt f => some (f, rowF (tyRegs f.ty) (.gen (tyRegs f.ty)) .none .none tyFl 0xF)
  | .fdiv f => some (f, rowF (tyRegs f.ty) (.gen (tyRegs f.ty)) (.gen (tyRegs f.ty)) .none tyFl 0xF)
  | .fex2 f => some (f, rowF 1 (.gen 1) .none .none 0x400 1)
  | .flg2 f => some (f, rowF 1 (.gen 1) .none .none 0x400 1)
  | .fsin f => some (f, rowF 1 (.gen 1) .none .none 0x400 1)
  | .fcos f => some (f, rowF 1 (.gen 1) .none .none 0x400 1)
  | .fcvt f =>
    let b := ctlOf f.b
    some (f,
      { scal := .both, pred := true, d := .reg (tyRegs f.ty) (tyRegs f.ty), a := .gen (tyRegs (BitVec.ofNat 4 b)),
        b := .control, c := if bitAt b 4 then .gen 1 else .none, types := 0xFF00,
        mods := if bitAt b 4 || f.ty == 15#4 then 1 else 0xF,
        extra := b < 32 && bitsOf b 3 0 ≥ 8 && !(f.ty == 15#4 && bitAt b 4) })
  | .ftoi f =>
    let b := ctlOf f.b
    some (f,
      { scal := .both, pred := true, d := .reg (tyRegs f.ty) (tyRegs f.ty), a := .gen (tyRegs (BitVec.ofNat 4 b)),
        b := .control, types := tyInt, mods := 0xF, extra := 8 ≤ b && b < 16 })
  | .itof f =>
    let b := ctlOf f.b
    some (f,
      { scal := .both, pred := true, d := .reg (tyRegs f.ty) (tyRegs f.ty), a := .gen (tyRegs (BitVec.ofNat 4 b)),
        b := .control, types := tyFl, mods := 0xF, extra := b < 8 })
  | .qnt f =>
    let n := qntN (bitsOf (ctlOf f.c) 5 0)
    some (f,
      { pred := true, d := .reg 1 1, a := .vr n, b := if f.md == 1#2 then .gen 1 else .none, c := .control,
        types := 0x400, mods := 3, extra := 1 ≤ ctlOf f.c && ctlOf f.c ≤ 7 })
  | .dqnt f =>
    let n := dqntN (bitsOf (ctlOf f.c) 1 0)
    some (f,
      { pred := true, d := .reg n n, a := .gen 1, c := .control, types := 0x400,
        extra := ctlOf f.c < 8 && bitsOf (ctlOf f.c) 1 0 != 0 })
  | .pack f => some (f,
      { scal := .both, pred := true, d := .reg 1 1, a := if f.sc then .sr (packN f.ty) else .vr (packN f.ty),
        types := 0xF300,
        mods := if f.ty == 15#4 then 1 else 0xF })
  | .unpack f => some (f,
      { scal := .both, pred := true, d := .reg (packN f.ty) (packN f.ty), a := .gen 1,
        types := 0xF300 })
  | .smap f => some (f, { scal := .sca, a := .sr 2, b := .sr 1, c := .sr 1, types := 0xFF, mods := 3 })
  | .tld f _ => some (f, { pred := true, d := .reg 1 1, a := .vr 1 })
  | .tst f _ => some (f, { pred := true, a := .vr 1, b := .gen 1 })
  | .hset f => some (f, { scal := .sca, a := { i := true }, b := .si (-64) 63 })
  | .hget f => some (f, { scal := .sca, d := .reg 1 1, a := { i := true } })
  | .qpush f => some (f, { pred := true, a := .gen 1, c := .control, extra := ctlOf f.c ≤ 15 })
  | .qpop f => some (f, { pred := true, d := .reg 1 1, b := .maskR, c := .control, extra := ctlOf f.c ≤ 15 })
  | .qstat f => some (f, { scal := .sca, d := .reg 1 1, c := .control, extra := ctlOf f.c ≤ 15 })
  | .qld f x => some (f, streamRow f x)
  | .qst f x => some (f, streamRow f x)
  | .plaunch f _ => some (f, { })
  | .psync f => some (f, { stall := false })
  | .qclose f => some (f, { stall := false, c := .control, extra := ctlOf f.c ≤ 15 })
  | .cpy f x => some (f, courierRow (4 + 3 * (x.ndim.toNat + 1)) (copyXOk x.x && x.esize.toNat ≤ 4) (copySrc x.x))
  | .cpyg f x => some (f, courierRow 7 (copyXOk x.x) (.v x.idx.toNat :: copySrc x.x))
  | .cpyh f x => some (f, courierRow 22 (copyXOk x.x && x.esize.toNat ≤ 3 && x.halo != 0#5) (copySrc x.x))
  | .cpys f x => some (f, courierRow 10
      (copyXOk x.x && x.str.toNat ≥ 4 && x.pat != 3#2 && inSet 0x3001 x.etype.toNat) (copySrc x.x))
  | .cpyq f x => some (f, courierRow 5 (copyXOk x.x) (copySrc x.x))
  | .twait f => some (f, { a := if f.md == 2#2 then .si 0 63 else { s := true, i := true, n := 2, al := 2 }, mods := 7 })
  | .tffr f => some (f, { scal := .sca, d := .reg 1 1, a := { s := true, i := true, n := 2, al := 2 }, mods := 3 })
  | .tclr f => some (f, { a := if f.md == 2#2 then .si 0 63 else { s := true, i := true, n := 2, al := 2 }, mods := 5 })
  | .mma f x => some (f, { pred := true, extra := mmaTypesOk 0 x && mmaFieldsOk 0 x })
  | .mmas f x => some (f, { pred := true, extra := mmaTypesOk 1 x && mmaFieldsOk 1 x })
  | .mmad f x => some (f, { pred := true, extra := mmaTypesOk 2 x && mmaFieldsOk 2 x })
  | .mzero f => some (f, { pred := true, d := .ctl, extra := f.d.toNat < 256 })
  | .mrd f => some (f, { pred := true, d := .reg 1 1, c := .control, types := 0x400, mods := 3, extra := ctlOf f.c ≤ 7 })
  | .mwr f => some (f, { pred := true, a := .vr 1, c := .control, types := 0x400, extra := ctlOf f.c ≤ 7 })
  | .mres f => some (f, { pred := true, a := .vr 1, b := .vr 1, c := .control, types := 0x400, extra := ctlOf f.c ≤ 7 })
  | .mstat f => some (f, { scal := .sca, d := .reg 1 1, mods := 0xF })
  | .tex f x => some (f,
      { pred := true, d := .reg 4 4, a := .gen 1, b := .gen 1, c := .gen 1, types := 0x400,
        extra := x.img.toNat % 2 == 0 && x.smp.toNat % 2 == 0,
        xsrc := [.s x.img.toNat, .s (x.img.toNat + 1), .s x.smp.toNat, .s (x.smp.toNat + 1)] })
  | .texg f x => some (f,
      { pred := true, d := .reg 4 4, a := .gen 1, b := .gen 1, types := 0x400,
        extra := x.img.toNat % 2 == 0 && x.smp.toNat % 2 == 0,
        xsrc := [.s x.img.toNat, .s (x.img.toNat + 1), .s x.smp.toNat, .s (x.smp.toNat + 1)] })
  | .texq f => some (f, { scal := .sca, d := .reg 1 1, a := .sr 2, b := .si 0 15, mods := 7 })
  | .rast f x => some (f,
      { scal := .sca, d := .reg 1 1, a := .sr 2, ep := 4,
        extra := x.rule.toNat ≤ 1 && x.kind.toNat ≤ 1 })
  | _ => none

/-- The signed value of a 7-bit inline integer (R38). -/
def immVal (n : BitVec 7) : Int := n.toInt

/-- Does a source field hold an operand its slot accepts? `sc` is the scalar form, in which no v-register is a source
except where `vOk` (RDFIRST, R42). -/
def slotOk (t : Slot) (sc vOk : Bool) (o : Operand) : Bool :=
  if t.ctl then true
  else if !(t.v || t.s || t.i || t.m || t.sp) then o == .v 0#9
  else match o with
    | .v n => t.v && (!sc || vOk) && n.toNat % t.al == 0 && n.toNat + t.n ≤ 512
    | .s n => t.s && n.toNat % t.al == 0 && n.toNat + t.n ≤ 128
    | .imm n => t.i && t.lo ≤ immVal n && immVal n ≤ t.hi
    | .mask _ => t.m
    | .spec _ => t.sp
    | .bad _ => false

/-- An EP bit may be set only for a used v-register or s-register source (R53). -/
def epOk (t : Slot) (allowed bit : Bool) (o : Operand) : Bool :=
  !bit || (allowed && !t.ctl && match o with
    | .v _ => t.v
    | .s _ => t.s
    | _ => false)

/-- The D field (R40, R41). -/
def dstOk (t : Dst) (sc : Bool) (d : BitVec 9) : Bool :=
  match t with
  | .none => d == 0#9
  | .reg n al => if sc then d.toNat % al == 0 && d.toNat + n ≤ 128 else d.toNat % al == 0 && d.toNat + n ≤ 512
  | .mask => d.toNat < 16
  | .maskOrS => if sc then d.toNat < 128 else d.toNat < 16
  | .ctl => true

/-- The scalar form and the predicate fields (R42): with S = 1, K is k0 and KN 0; K = k0 with KN = 1 is malformed. -/
def predOk (pred sc : Bool) (k : BitVec 4) (kn : Bool) : Bool :=
  if pred && !sc then !(k == 0#4 && kn) else k == 0#4 && !kn

/-- Is S one the instruction has? -/
def scalOk (t : Scal) (sc : Bool) : Bool :=
  match t with
  | .vec => !sc
  | .sca => sc
  | .both => true

/-- Does an R-format instruction meet its row? `rdf` is true for RDFIRST, whose scalar form reads a v-register. -/
def rowOk (rdf : Bool) (f : RF) (r : Row) : Bool :=
  scalOk r.scal f.sc && predOk r.pred f.sc f.k f.kn && (r.stall || f.stall == 0#2) &&
  inSet r.types f.ty.toNat && inSet r.mods f.md.toNat && dstOk r.d f.sc f.d &&
  slotOk r.a f.sc rdf f.a && slotOk r.b f.sc false f.b && slotOk r.c f.sc false f.c &&
  epOk r.a (r.ep.testBit 2) (f.ep.getLsbD 2) f.a && epOk r.b (r.ep.testBit 1) (f.ep.getLsbD 1) f.b &&
  epOk r.c (r.ep.testBit 0) (f.ep.getLsbD 0) f.c && r.extra

/-- The MOVI word (R226). -/
def moviOk (f : MoviF) : Bool :=
  f.ep == 0#3 && predOk true f.sc f.k f.kn && inSet 0xCCC f.ty.toNat && dstOk (.reg (tyRegs f.ty) (tyRegs f.ty)) f.sc f.d

/-- SLEEP, BKPT and TRAP (R31, Table 6.1): only the named fields may be nonzero; SLEEP's count is not negative. -/
def ifOk (pred : Bool) (f : IF) : Bool :=
  f.ep == 0#3 && !f.sc && f.d == 0#9 && f.a == .v 0#9 && f.ty == 0#4 && predOk pred false f.k f.kn
def sleepOk (f : IF) : Bool := ifOk false f && !f.imm.msb

/-- BRA, BRX, CALL and RJOIN (R174, R176, R177, R180). -/
def braOk (f : BF) : Bool := predOk true false f.k f.kn && f.bmod.toNat ≤ 2 && f.a == .v 0#9
def pairBranchOk (f : BF) : Bool := predOk true false f.k f.kn && f.bmod == 0#4 && slotOk (.vs 2) false false f.a
def rjoinOk (f : BF) : Bool :=
  predOk false false f.k f.kn && f.bmod == 0#4 && f.off == 0#32 && slotOk (.si (-64) 63) false false f.a

/-- The BASE field (R33): a v-pair v(2n):v(2n+1), or an s-pair s(2n):s(2n+1) with bit 34 zero. -/
inductive Base where
  | v (n : Nat)
  | s (n : Nat)
deriving DecidableEq, Repr, Inhabited
def baseOf (b : BitVec 8) : Base :=
  if b.msb then .s (2 * (b.toNat % 64)) else .v (2 * (b.toNat % 128))
def baseOk (b : BitVec 8) : Bool := !b.msb || !b.getLsbD 6
def baseScalar (b : BitVec 8) : Bool := b.msb

/-- The OFFSET field of the M format: with ORD ≠ 00 it holds SCOPE, three reserved bits and a 16-bit offset (R33). -/
def mScope (f : MF) : Nat := f.off.toNat / 2 ^ 19
def mOffOk (f : MF) : Bool := f.ord == 0#2 || (scopeOk (mScope f) && bitsOf f.off.toNat 18 16 == 0)
/-- The signed byte offset of an M-format instruction. -/
def mOff (f : MF) : Int := if f.ord == 0#2 then sextN f.off.toNat 24 else sextN f.off.toNat 16

/-- The registers of an MTYPE's DATA (Table 9.2). -/
def mtyRegs (m : BitVec 4) : Nat := if m == 3#4 then 2 else if m == 4#4 then 4 else 1

/-- The rules common to the M format (R256): accepted ORD and MTYPE sets, the scalar form, STRM, DATA and BASE.
`src` says that DATA is a source, whose EP bit may be set. -/
def mOk (ords mtys : Nat) (scal : Scal) (strm src : Bool) (f : MF) : Bool :=
  inSet ords f.ord.toNat && inSet mtys f.mty.toNat && scalOk scal f.sc && (strm || !f.strm) &&
  (src || !f.ep.getLsbD 1) && predOk true f.sc f.k f.kn && baseOk f.base && (!f.sc || baseScalar f.base) &&
  dstOk (.reg (mtyRegs f.mty) (mtyRegs f.mty)) f.sc f.data && mOffOk f

/-- FENCE (R274): only ORD and SCOPE may be nonzero. -/
def fenceOk (f : MF) : Bool :=
  !f.sc && !f.strm && f.data == 0#9 && f.base == 0#8 && f.mty == 0#4 && f.k == 0#4 && !f.kn && f.ep == 0#2 &&
  (if f.ord == 0#2 then f.off == 0#24 else scopeOk (mScope f) && bitsOf f.off.toNat 18 0 == 0)

/-- The registers of an ATYPE. -/
def atyRegs (t : BitVec 3) : Nat := if t == 2#3 || t == 3#3 || t == 7#3 then 2 else 1
/-- The ATYPEs each AOP accepts (Table 9.3). -/
def aopTypes (a : Nat) : Nat :=
  match a with
  | 0 => 0xFF | 1 => 0x0F | 2 => 0xFF | 3 => 0xFF | 4 => 0x0F | 5 => 0x0F | 6 => 0x0F | 7 => 0xFF | 8 => 0xFF
  | 9 => 0x0A | 10 => 0x0A | _ => 0
/-- ATOM, ATOMN and XADD (R264, R265, R268). `kind` is 0 for ATOM, 1 for ATOMN, 2 for XADD. -/
def aOk (kind : Nat) (f : AF) : Bool :=
  scopeOk f.scope.toNat && !(f.k == 0#4 && f.kn) && baseOk f.base && slotOk (.gen (atyRegs f.aty)) false false f.data &&
  (if kind == 2 then f.aop == 0#4 && inSet 0x70 f.aty.toNat && f.cmp == .v 0#9
   else inSet (aopTypes f.aop.toNat) f.aty.toNat &&
     (if f.aop == 8#4 then slotOk (.gen (atyRegs f.aty)) false false f.cmp else f.cmp == .v 0#9)) &&
  (if kind == 0 then dstOk (.reg (atyRegs f.aty) (atyRegs f.aty)) false f.d else f.d == 0#9)

/-- The R-format fields a compact unit stands for (R57, Table 2.13). -/
def expandReg (ty : BitVec 4) (f : CF) : RF :=
  { stall := 0, ep := 0, k := 0#2 ++ f.k, kn := false, sc := f.sc, d := 0#2 ++ f.d,
    a := if f.sc then .s f.a else .v (0#2 ++ f.a), b := if f.sc then .s f.b else .v (0#2 ++ f.b), c := .v 0,
    ty := ty, md := 0 }
def expandInl (ty : BitVec 4) (f : CF) : RF :=
  { stall := 0, ep := 0, k := 0#2 ++ f.k, kn := false, sc := f.sc, d := 0#2 ++ f.d,
    a := if f.sc then .s f.a else .v (0#2 ++ f.a), b := .imm f.b, c := .v 0, ty := ty, md := 0 }
def expandUn (ty : BitVec 4) (f : CU) : RF :=
  { stall := 0, ep := 0, k := 0#2 ++ f.k, kn := false, sc := f.sc, d := 0#2 ++ f.d,
    a := if f.sc then .s f.a else .v (0#2 ++ f.a), b := .v 0, c := .v 0, ty := ty, md := 0 }
def expandSrd (f : CU) : RF :=
  { stall := 0, ep := 0, k := 0#2 ++ f.k, kn := false, sc := f.sc, d := 0#2 ++ f.d,
    a := .spec f.a, b := .v 0, c := .v 0, ty := 0, md := 0 }
def expandBare (k : BitVec 2) : RF :=
  { stall := 0, ep := 0, k := 0#2 ++ k, kn := false, sc := false, d := 0, a := .v 0, b := .v 0, c := .v 0, ty := 0,
    md := 0 }

/-- The core instruction a compact unit is equivalent to (R57, R58); every other instruction is itself. -/
def expand : Instr → Instr
  | .nopCompact => .nop (expandBare 0)
  | .movI32Compact f => .mov (expandUn 2 f)
  | .iaddI32CompactReg f => .iadd (expandReg 2 f)
  | .iaddI32CompactImm f => .iadd (expandInl 2 f)
  | .isubI32CompactReg f => .isub (expandReg 2 f)
  | .isubI32CompactImm f => .isub (expandInl 2 f)
  | .imulI32CompactReg f => .imul (expandReg 2 f)
  | .imulI32CompactImm f => .imul (expandInl 2 f)
  | .iandI32CompactReg f => .iand (expandReg 2 f)
  | .iandI32CompactImm f => .iand (expandInl 2 f)
  | .iorI32Compact f => .ior (expandReg 2 f)
  | .ixorI32Compact f => .ixor (expandReg 2 f)
  | .shlI32Compact f => .shl (expandInl 2 f)
  | .shrN32Compact f => .shr (expandInl 6 f)
  | .sraI32Compact f => .sra (expandInl 2 f)
  | .iminI32Compact f => .imin (expandReg 2 f)
  | .imaxI32Compact f => .imax (expandReg 2 f)
  | .iaddI64CompactReg f => .iadd (expandReg 3 f)
  | .iaddI64CompactImm f => .iadd (expandInl 3 f)
  | .popcN32Compact f => .popc (expandUn 6 f)
  | .clzN32Compact f => .clz (expandUn 6 f)
  | .faddF32Compact f => .fadd (expandReg 10 f)
  | .fsubF32Compact f => .fsub (expandReg 10 f)
  | .fmulF32CompactReg f => .fmul (expandReg 10 f)
  | .fmulF32CompactImm f => .fmul (expandInl 10 f)
  | .fminF32Compact f => .fmin (expandReg 10 f)
  | .fmaxF32Compact f => .fmax (expandReg 10 f)
  | .faddF64Compact f => .fadd (expandReg 11 f)
  | .fmulF64Compact f => .fmul (expandReg 11 f)
  | .faddF16Compact f => .fadd (expandReg 8 f)
  | .fmulF16Compact f => .fmul (expandReg 8 f)
  | .fsqrtF32Compact f => .fsqrt (expandUn 10 f)
  | .exitCompact k => .exit (expandBare k)
  | .retCompact k => .ret (expandBare k)
  | .fuseCompact => .fuse (expandBare 0)
  | .yieldCompact => .yield (expandBare 0)
  | .srdCompact f => .srd (expandSrd f)
  | i => i

/-- The static acceptance of a core instruction; events have no fields to accept. SRD and SWR of an unassigned index are
rejected apart from this, with their own subcause (R48). -/
def formOk (i : Instr) : Bool :=
  match rowOf i with
  | some (f, r) => rowOk (match i with | .rdfirst _ => true | _ => false) f r
  | none =>
    match i with
    | .movi f => moviOk f
    | .sleep f => sleepOk f
    | .bkpt f => ifOk true f
    | .trap f => ifOk true f
    | .bra f => braOk f
    | .brx f => pairBranchOk f
    | .call f => pairBranchOk f
    | .rjoin f => rjoinOk f
    | .ld f => mOk 3 0x1FF .both true false f
    | .st f => mOk 5 0x1FF .both true true f
    | .xrnd f => mOk 3 0xC .both false false f
    | .compst f => mOk 5 0xF .vec true true f && baseScalar f.base
    | .expld f => mOk 3 0x1EF .vec true false f && baseScalar f.base
    | .pref f => mOk 1 7 .vec false false f && f.data == 0#9
    | .fence f => fenceOk f
    | .sflush f => mOk 1 1 .sca false true f
    | .sinv f => mOk 1 1 .sca false true f
    | .cwb f => mOk 1 1 .sca false true f
    | .cinv f => mOk 1 1 .sca false true f
    | .waitmem f => mOk 3 0xC .both false true f
    | .atom f => aOk 0 f
    | .atomn f => aOk 1 f
    | .xadd f => aOk 2 f
    | _ => true

/-- SRD or SWR of an unassigned special register (R48). -/
def specUnassigned (i : Instr) : Bool :=
  let named (o : Operand) : Bool := match o with | .spec n => !specAssigned n.toNat | _ => false
  match i with
  | .srd f => named f.a
  | .swr f => named f.a
  | _ => false

/-- The registers a source field names: the operand's register and those that follow it in its group. -/
def slotRegs (t : Slot) (o : Operand) : List Reg :=
  if t.ctl then []
  else match o with
    | .v n => if t.v then (List.range t.n).map fun j => .v (n.toNat + j) else []
    | .s n => if t.s then (List.range t.n).map fun j => .s (n.toNat + j) else []
    | .mask n => if t.m then [.k n.toNat] else []
    | _ => []

/-- The registers a D field names. -/
def dstRegs (t : Dst) (sc : Bool) (d : BitVec 9) : List Reg :=
  match t with
  | .none => []
  | .reg n _ => (List.range n).map fun j => if sc then .s (d.toNat + j) else .v (d.toNat + j)
  | .mask => [.k d.toNat]
  | .maskOrS => if sc then [.s d.toNat] else [.k d.toNat]
  | .ctl => []

/-- The pair a BASE field names. -/
def baseRegs (b : BitVec 8) : List Reg :=
  match baseOf b with
  | .v n => [.v n, .v (n + 1)]
  | .s n => [.s n, .s (n + 1)]

/-- The registers of an M-format DATA field. -/
def dataRegs (f : MF) : List Reg :=
  (List.range (mtyRegs f.mty)).map fun j => if f.sc then .s (f.data.toNat + j) else .v (f.data.toNat + j)

/-- The predicate register of an instruction, when it has one. -/
def predReg (k : BitVec 4) : List Reg := if k == 0#4 then [] else [.k k.toNat]

/-- `n` registers from one on. -/
def groupRegs (sc : Bool) (r n : Nat) : List Reg := (List.range n).map fun j => if sc then .s (r + j) else .v (r + j)

/-- What the encoding of a tensor instruction leaves to its handle: the rank, and whether the element takes a pair of
registers (R286). -/
structure Dyn where
  rank : Nat
  wide : Bool
deriving DecidableEq, Repr, Inhabited

/-- No handle read: the registers that the encoding alone names. -/
def Dyn.static : Dyn := { rank := 0, wide := false }

/-- The register after the one a field names, under a 64-bit element. -/
def Dyn.second (y : Dyn) (o : Operand) : List Reg :=
  if !y.wide then []
  else match o with
    | .v n => [.v (n.toNat + 1)]
    | .s n => [.s (n.toNat + 1)]
    | _ => []

/-- The registers of A, of B and of D whose number the encoding does not give: the coordinates of TLD and TST and the pair
of a 64-bit element (R286), and the register group of MRD and MWR (256 / `w`, R365). -/
def dynGroup (w : Nat) (y : Dyn) : Instr → List Reg × List Reg × List Reg
  | .tld f _ => (match f.a with | .v n => groupRegs false n.toNat (y.rank + 1) | _ => [], [], y.second (.v f.d))
  | .tst f _ => (match f.a with | .v n => groupRegs false n.toNat (y.rank + 1) | _ => [], y.second f.b, [])
  | .mwr f => (match f.a with | .v n => groupRegs false n.toNat (256 / w) | _ => [], [], [])
  | .mrd f => ([], [], groupRegs false f.d.toNat (256 / w))
  | _ => ([], [], [])

/-- The registers an instruction reads, each with its EP bit (R53): true traps EMPTYREG, false holds. `w` is the wave's
width and `y` what a tensor handle adds. -/
def srcsOf (w : Nat) (y : Dyn) (i : Instr) : List (Reg × Bool) :=
  let blk := List.map fun r => (r, false)
  match rowOf i with
  | some (f, r) =>
    (slotRegs r.a f.a ++ (dynGroup w y i).1).map (fun x => (x, f.ep.getLsbD 2)) ++
    (match i with | .qpop _ => [] | _ => (slotRegs r.b f.b ++ (dynGroup w y i).2.1).map fun x => (x, f.ep.getLsbD 1)) ++
    (slotRegs r.c f.c).map (fun x => (x, f.ep.getLsbD 0)) ++ blk (predReg f.k) ++ blk r.xsrc ++
    (match i with
      | .icmp f => if f.sc || f.md == 0#2 then [] else blk [.k f.d.toNat]
      | .fcmp f => if f.sc || f.md == 0#2 then [] else blk [.k f.d.toNat]
      | _ => [])
  | none =>
    match i with
    | .movi f => blk (predReg f.k)
    | .bkpt f => blk (predReg f.k)
    | .trap f => blk (predReg f.k)
    | .bra f => blk (predReg f.k)
    | .brx f => blk (predReg f.k ++ slotRegs (.vs 2) f.a)
    | .call f => blk (predReg f.k)
    | .rjoin f => blk (slotRegs (.si (-64) 63) f.a)
    | .ld f => blk (predReg f.k) ++ (baseRegs f.base).map fun x => (x, f.ep.getLsbD 0)
    | .xrnd f => blk (predReg f.k) ++ (baseRegs f.base).map fun x => (x, f.ep.getLsbD 0)
    | .expld f => blk (predReg f.k) ++ (baseRegs f.base).map fun x => (x, f.ep.getLsbD 0)
    | .pref f => blk (predReg f.k) ++ (baseRegs f.base).map fun x => (x, f.ep.getLsbD 0)
    | .st f => mSrcs f
    | .compst f => mSrcs f
    | .sflush f => mSrcs f
    | .sinv f => mSrcs f
    | .cwb f => mSrcs f
    | .cinv f => mSrcs f
    | .waitmem f => mSrcs f
    | .atom f => aSrcs f
    | .atomn f => aSrcs f
    | .xadd f => aSrcs f
    | _ => []
where
  mSrcs (f : MF) : List (Reg × Bool) :=
    (predReg f.k).map (fun r => (r, false)) ++ (dataRegs f).map (fun x => (x, f.ep.getLsbD 1)) ++
    (baseRegs f.base).map fun x => (x, f.ep.getLsbD 0)
  aSrcs (f : AF) : List (Reg × Bool) :=
    (predReg f.k ++ baseRegs f.base ++ slotRegs (.gen (atyRegs f.aty)) f.data ++
      (if f.aop == 8#4 then slotRegs (.gen (atyRegs f.aty)) f.cmp else [])).map fun r => (r, false)

/-- The registers an instruction writes. -/
def dstsOf (w : Nat) (y : Dyn) (i : Instr) : List Reg :=
  match rowOf i with
  | some (f, r) =>
    dstRegs r.d f.sc f.d ++ (dynGroup w y i).2.2 ++ r.xdst ++
    (match i with
      | .iaddc f => slotRegs .maskR f.c
      | .qpop f => slotRegs .maskR f.b
      | .tld _ x => [.k x.km.toNat]
      | .tst _ x => [.k x.km.toNat]
      | _ => [])
  | none =>
    match i with
    | .movi f => dstRegs (.reg (tyRegs f.ty) (tyRegs f.ty)) f.sc f.d
    | .call f => slotRegs (.vs 2) f.a
    | .ld f => dataRegs f
    | .xrnd f => dataRegs f
    | .expld f => dataRegs f
    | .atom f => groupRegs false f.d.toNat (atyRegs f.aty)
    | _ => []

/-- Issue classes (Table 5.8). -/
inductive IssueClass where
  | control | vector | scalar | memory | porter | courier | matrix | raster
deriving DecidableEq, Repr, Inhabited

/-- The class of an opcode; `sc` is the S bit. -/
def classOf (op : Nat) (sc : Bool) : IssueClass :=
  if op < 0x20 then .control
  else if op < 0x30 then .vector
  else if op < 0xA0 then if sc then .scalar else .vector
  else if op < 0xC0 then .memory
  else if op < 0xD0 then .porter
  else if op < 0xE0 then .courier
  else if op < 0xF0 then .matrix
  else .raster

/-- An instruction that needs the whole wave: a matrix instruction, a Courier command, MIGRATE, a lane instruction with
`.w`, FUSE or REGROUP (R19, R156, R191), told from its D-form word. -/
def wholeWord (w : W64) : Bool :=
  let op := (w.extractLsb' 56 8).toNat
  op == 0x06 || op == 0x0D || op == 0x0F || (0x20 ≤ op && op ≤ 0x2E && w.getLsbD 6) || (0xD0 ≤ op && op ≤ 0xD4) ||
  (0xE0 ≤ op && op ≤ 0xE7)

/-- The opcodes absent on an L-core (Table 15.2). -/
def absentOnL (op : Nat) : Bool :=
  (0xC0 ≤ op && op ≤ 0xC7) || op == 0xD3 || op == 0xD4 || (0xE0 ≤ op && op ≤ 0xE7)

end Sys2Proof
end

