-- ==== Sys2Proof/WellFormed.lean ====
section
/-! DEFINITION. Which instructions of the syntax are instructions of the machine: the static acceptance rules of
Table 2.8's RESERVED rows (R37 to R43, R53, and each chapter's encoding table). -/
namespace Sys2Proof

/-- Does the instruction name only registers, classes, TYPE, MOD, SCOPE and AOP values it accepts? Compact units are
judged as the instruction they stand for (R57); events carry no encoding. -/
def wellFormed (i : Instr) : Bool := formOk (expand i)

end Sys2Proof
end

