-- ==== Sys2Proof/Decode.lean ====
section
/-! DEFINITION. The two encodings (R24, R30 to R36, R55 to R58): the encoder, written from the format tables, and the
decoder, total on any words and on any bytes. A word whose reserved bits are nonzero is rejected by comparing it with
the encoding of what was read from it (Table 2.8). -/
namespace Sys2Proof

/-- Why words are not an instruction (Table 2.8, R55). -/
inductive Reject where
  /-- the opcode or compact code is assigned to nothing -/
  | unassigned
  /-- a two-word instruction cut by the end of its block (R29) -/
  | cut
  /-- a nonzero reserved field in a first word or extension word -/
  | reserved
  /-- an L-encoding unit whose tag does not match its position (R55) -/
  | tag
  /-- fewer bytes than one word -/
  | short
deriving DecidableEq, Repr, Inhabited

/-- What a decoder answers. -/
inductive Decoded where
  | ok (i : Instr)
  | bad (why : Reject)
deriving DecidableEq, Repr, Inhabited

/-- The ten-bit operand field decoded (Table 2.5). -/
def decOperand (o : BitVec 10) : Operand :=
  if o.getLsbD 9 then
    let n := o.extractLsb' 0 7
    match (o.extractLsb' 7 2).toNat with
    | 0 => .s n
    | 1 => .imm n
    | 2 => .spec n
    | _ => if o.extractLsb' 4 3 == 0#3 then .mask (o.extractLsb' 0 4) else .bad n
  else .v (o.extractLsb' 0 9)

/-- One bit as a bit vector. -/
def bit1 (b : Bool) : BitVec 1 := BitVec.ofBool b

/-- The R format (Table 2.2). -/
def encR (op : BitVec 8) (f : RF) : W64 :=
  op ++ f.stall ++ f.ep ++ f.k ++ bit1 f.kn ++ bit1 f.sc ++ f.d ++ encOperand f.a ++ encOperand f.b ++ encOperand f.c ++
    f.ty ++ f.md
def decR (w : W64) : RF :=
  { stall := w.extractLsb' 54 2, ep := w.extractLsb' 51 3, k := w.extractLsb' 47 4, kn := w.getLsbD 46,
    sc := w.getLsbD 45, d := w.extractLsb' 36 9, a := decOperand (w.extractLsb' 26 10),
    b := decOperand (w.extractLsb' 16 10), c := decOperand (w.extractLsb' 6 10), ty := w.extractLsb' 2 4,
    md := w.extractLsb' 0 2 }

/-- The I format (R31). -/
def encI (op : BitVec 8) (f : IF) : W64 :=
  op ++ f.stall ++ f.ep ++ f.k ++ bit1 f.kn ++ bit1 f.sc ++ f.d ++ encOperand f.a ++ f.imm ++ f.ty
def decI (w : W64) : IF :=
  { stall := w.extractLsb' 54 2, ep := w.extractLsb' 51 3, k := w.extractLsb' 47 4, kn := w.getLsbD 46,
    sc := w.getLsbD 45, d := w.extractLsb' 36 9, a := decOperand (w.extractLsb' 26 10), imm := w.extractLsb' 4 22,
    ty := w.extractLsb' 0 4 }

/-- The MOVI word (Table 7.2). -/
def encMovi (op : BitVec 8) (f : MoviF) : W64 :=
  op ++ f.stall ++ f.ep ++ f.k ++ bit1 f.kn ++ bit1 f.sc ++ f.d ++ f.imm ++ f.ty
def decMovi (w : W64) : MoviF :=
  { stall := w.extractLsb' 54 2, ep := w.extractLsb' 51 3, k := w.extractLsb' 47 4, kn := w.getLsbD 46,
    sc := w.getLsbD 45, d := w.extractLsb' 36 9, imm := w.extractLsb' 4 32, ty := w.extractLsb' 0 4 }

/-- The B format (Table 2.3). -/
def encB (op : BitVec 8) (f : BF) : W64 :=
  op ++ 0#5 ++ f.k ++ bit1 f.kn ++ f.bmod ++ f.off ++ encOperand f.a
def decB (w : W64) : BF :=
  { k := w.extractLsb' 47 4, kn := w.getLsbD 46, bmod := w.extractLsb' 42 4, off := w.extractLsb' 10 32,
    a := decOperand (w.extractLsb' 0 10) }

/-- The M format (Table 2.4). -/
def encM (op : BitVec 8) (f : MF) : W64 :=
  op ++ f.ord ++ f.ep ++ f.k ++ bit1 f.kn ++ bit1 f.sc ++ bit1 f.strm ++ f.data ++ f.base ++ f.off ++ f.mty
def decM (w : W64) : MF :=
  { ord := w.extractLsb' 54 2, ep := w.extractLsb' 52 2, k := w.extractLsb' 48 4, kn := w.getLsbD 47,
    sc := w.getLsbD 46, strm := w.getLsbD 45, data := w.extractLsb' 36 9, base := w.extractLsb' 28 8,
    off := w.extractLsb' 4 24, mty := w.extractLsb' 0 4 }

/-- The A format (R34). -/
def encA (op : BitVec 8) (f : AF) : W64 :=
  op ++ f.ord ++ f.scope ++ f.k ++ bit1 f.kn ++ f.d ++ f.base ++ encOperand f.data ++ encOperand f.cmp ++ f.aop ++ f.aty
def decA (w : W64) : AF :=
  { ord := w.extractLsb' 54 2, scope := w.extractLsb' 49 5, k := w.extractLsb' 45 4, kn := w.getLsbD 44,
    d := w.extractLsb' 35 9, base := w.extractLsb' 27 8, data := decOperand (w.extractLsb' 17 10),
    cmp := decOperand (w.extractLsb' 7 10), aop := w.extractLsb' 3 4, aty := w.extractLsb' 0 3 }

/-- Extension words (R36; Table 13.9, R191, R436, Tables 9.7 and 10.3, R295, Tables 11.3 to 11.5, R328, R329, R332,
Table 12.2, R470, Table 16.2). -/
def encSpawnX (x : SpawnX) : W64 := 0#62 ++ x.psz
def decSpawnX (w : W64) : SpawnX := { psz := w.extractLsb' 0 2 }
def encRegroupX (x : RegroupX) : W64 := 0#48 ++ x.part
def decRegroupX (w : W64) : RegroupX := { part := w.extractLsb' 0 16 }
def encPublishX (x : PublishX) : W64 := 0#57 ++ x.stat
def decPublishX (w : W64) : PublishX := { stat := w.extractLsb' 0 7 }
def encTensorX (x : TensorX) : W64 := 0#56 ++ x.km ++ x.hnd
def decTensorX (w : W64) : TensorX := { km := w.extractLsb' 4 4, hnd := w.extractLsb' 0 4 }
def encStreamX (x : StreamX) : W64 := 0#44 ++ x.ndim ++ bit1 x.strm ++ x.sh ++ x.mode ++ x.mty ++ x.qi ++ x.qd
def decStreamX (w : W64) : StreamX :=
  { ndim := w.extractLsb' 18 2, strm := w.getLsbD 17, sh := w.extractLsb' 14 3, mode := w.extractLsb' 12 2,
    mty := w.extractLsb' 8 4, qi := w.extractLsb' 4 4, qd := w.extractLsb' 0 4 }
def encPlaunchX (x : PlaunchX) : W64 := 0#2 ++ x.off ++ 0#16 ++ x.bind
def decPlaunchX (w : W64) : PlaunchX := { off := w.extractLsb' 32 30, bind := w.extractLsb' 0 16 }
def encCopyX (x : CopyX) (low : BitVec 30) : W64 := 0#2 ++ x.scope ++ bit1 x.sig ++ x.sreg ++ 0#19 ++ low
def decCopyX (w : W64) : CopyX :=
  { scope := w.extractLsb' 57 5, sig := w.getLsbD 56, sreg := w.extractLsb' 49 7 }
def encCpyX (x : CpyX) : W64 := encCopyX x.x (x.esize ++ x.ndim ++ 0#25)
def decCpyX (w : W64) : CpyX := { x := decCopyX w, esize := w.extractLsb' 27 3, ndim := w.extractLsb' 25 2 }
def encCpygX (x : CpygX) : W64 := encCopyX x.x (x.idx ++ 0#21)
def decCpygX (w : W64) : CpygX := { x := decCopyX w, idx := w.extractLsb' 21 9 }
def encCpyhX (x : CpyhX) : W64 := encCopyX x.x (x.esize ++ x.bmode ++ x.edge ++ x.halo ++ 0#16)
def decCpyhX (w : W64) : CpyhX :=
  { x := decCopyX w, esize := w.extractLsb' 27 3, bmode := w.extractLsb' 25 2, edge := w.extractLsb' 21 4,
    halo := w.extractLsb' 16 5 }
def encCpysX (x : CpysX) : W64 := encCopyX x.x (x.str ++ x.fm ++ x.pat ++ x.tm ++ x.etype ++ bit1 x.drop ++ 0#16)
def decCpysX (w : W64) : CpysX :=
  { x := decCopyX w, str := w.extractLsb' 27 3, fm := w.extractLsb' 25 2, pat := w.extractLsb' 23 2,
    tm := w.extractLsb' 21 2, etype := w.extractLsb' 17 4, drop := w.getLsbD 16 }
def encCpyqX (x : CpyqX) : W64 := encCopyX x.x (x.str ++ x.rows ++ 0#23)
def decCpyqX (w : W64) : CpyqX := { x := decCopyX w, str := w.extractLsb' 27 3, rows := w.extractLsb' 23 4 }
def encMmaX (x : MmaX) : W64 :=
  0#34 ++ x.acc ++ x.fa ++ x.fb ++ x.fm ++ x.nstep ++ x.aty ++ x.bty ++ bit1 x.sdb ++ x.pat ++ x.terms ++ 0#2
def decMmaX (w : W64) : MmaX :=
  { acc := w.extractLsb' 27 3, fa := w.extractLsb' 25 2, fb := w.extractLsb' 23 2, fm := w.extractLsb' 21 2,
    nstep := w.extractLsb' 15 6, aty := w.extractLsb' 11 4, bty := w.extractLsb' 7 4, sdb := w.getLsbD 6,
    pat := w.extractLsb' 4 2, terms := w.extractLsb' 2 2 }
def encTexX (x : TexX) : W64 := 0#49 ++ x.smp ++ 0#1 ++ x.img
def decTexX (w : W64) : TexX := { img := w.extractLsb' 0 7, smp := w.extractLsb' 8 7 }
def encRastX (x : RastX) : W64 := 0#59 ++ bit1 x.noemit ++ x.rule ++ x.kind
def decRastX (w : W64) : RastX := { noemit := w.getLsbD 4, rule := w.extractLsb' 2 2, kind := w.extractLsb' 0 2 }

/-- The D-form words of a core instruction, first word first (R24, R36); none for compact units and events. -/
def encode : Instr → List W64
  | .nop f => [encR 0x00#8 f]
  | .bra f => [encB 0x01#8 f]
  | .brx f => [encB 0x02#8 f]
  | .call f => [encB 0x03#8 f]
  | .ret f => [encR 0x04#8 f]
  | .rjoin f => [encB 0x05#8 f]
  | .fuse f => [encR 0x06#8 f]
  | .exit f => [encR 0x07#8 f]
  | .yield f => [encR 0x08#8 f]
  | .sleep f => [encI 0x09#8 f]
  | .bkpt f => [encI 0x0A#8 f]
  | .trap f => [encI 0x0B#8 f]
  | .hret f => [encR 0x0C#8 f]
  | .migrate f => [encR 0x0D#8 f]
  | .spawn f x => [encR 0x0E#8 f, encSpawnX x]
  | .regroup f x => [encR 0x0F#8 f, encRegroupX x]
  | .bar f => [encR 0x10#8 f]
  | .bararv f => [encR 0x11#8 f]
  | .barwt f => [encR 0x12#8 f]
  | .waitmem f => [encM 0x13#8 f]
  | .srd f => [encR 0x14#8 f]
  | .swr f => [encR 0x15#8 f]
  | .publish f x => [encR 0x16#8 f, encPublishX x]
  | .tlbinv f => [encR 0x17#8 f]
  | .cwb f => [encM 0x18#8 f]
  | .cinv f => [encM 0x19#8 f]
  | .vote f => [encR 0x20#8 f]
  | .kop f => [encR 0x21#8 f]
  | .kpopc f => [encR 0x22#8 f]
  | .kffs f => [encR 0x23#8 f]
  | .rdfirst f => [encR 0x24#8 f]
  | .shfl f => [encR 0x25#8 f]
  | .perm f => [encR 0x26#8 f]
  | .compress f => [encR 0x27#8 f]
  | .expand f => [encR 0x28#8 f]
  | .reduce f => [encR 0x29#8 f]
  | .scan f => [encR 0x2A#8 f]
  | .segred f => [encR 0x2B#8 f]
  | .segscan f => [encR 0x2C#8 f]
  | .vrdx f => [encR 0x2D#8 f]
  | .vwrx f => [encR 0x2E#8 f]
  | .iadd f => [encR 0x40#8 f]
  | .isub f => [encR 0x41#8 f]
  | .iaddc f => [encR 0x42#8 f]
  | .imul f => [encR 0x43#8 f]
  | .imulh f => [encR 0x44#8 f]
  | .imad f => [encR 0x45#8 f]
  | .imadw f => [encR 0x46#8 f]
  | .imin f => [encR 0x47#8 f]
  | .imax f => [encR 0x48#8 f]
  | .iabs f => [encR 0x49#8 f]
  | .iand f => [encR 0x4A#8 f]
  | .ior f => [encR 0x4B#8 f]
  | .ixor f => [encR 0x4C#8 f]
  | .shl f => [encR 0x4D#8 f]
  | .shr f => [encR 0x4E#8 f]
  | .sra f => [encR 0x4F#8 f]
  | .rot f => [encR 0x50#8 f]
  | .bfe f => [encR 0x51#8 f]
  | .bfi f => [encR 0x52#8 f]
  | .popc f => [encR 0x53#8 f]
  | .clz f => [encR 0x54#8 f]
  | .brev f => [encR 0x55#8 f]
  | .icmp f => [encR 0x56#8 f]
  | .sel f => [encR 0x57#8 f]
  | .mov f => [encR 0x58#8 f]
  | .movi f => [encMovi 0x59#8 f]
  | .lea f => [encR 0x5A#8 f]
  | .icvt f => [encR 0x5B#8 f]
  | .idiv f => [encR 0x5C#8 f]
  | .irem f => [encR 0x5D#8 f]
  | .fadd f => [encR 0x70#8 f]
  | .fsub f => [encR 0x71#8 f]
  | .fmul f => [encR 0x72#8 f]
  | .ffma f => [encR 0x73#8 f]
  | .fmin f => [encR 0x74#8 f]
  | .fmax f => [encR 0x75#8 f]
  | .fcmp f => [encR 0x76#8 f]
  | .fclass f => [encR 0x77#8 f]
  | .frnd f => [encR 0x78#8 f]
  | .frcp f => [encR 0x79#8 f]
  | .frsq f => [encR 0x7A#8 f]
  | .fsqrt f => [encR 0x7B#8 f]
  | .fdiv f => [encR 0x7C#8 f]
  | .fex2 f => [encR 0x7D#8 f]
  | .flg2 f => [encR 0x7E#8 f]
  | .fsin f => [encR 0x7F#8 f]
  | .fcos f => [encR 0x80#8 f]
  | .fcvt f => [encR 0x81#8 f]
  | .ftoi f => [encR 0x82#8 f]
  | .itof f => [encR 0x83#8 f]
  | .qnt f => [encR 0x84#8 f]
  | .dqnt f => [encR 0x85#8 f]
  | .pack f => [encR 0x86#8 f]
  | .unpack f => [encR 0x87#8 f]
  | .ld f => [encM 0xA0#8 f]
  | .st f => [encM 0xA1#8 f]
  | .atom f => [encA 0xA2#8 f]
  | .atomn f => [encA 0xA3#8 f]
  | .xadd f => [encA 0xA4#8 f]
  | .xrnd f => [encM 0xA5#8 f]
  | .compst f => [encM 0xA6#8 f]
  | .expld f => [encM 0xA7#8 f]
  | .pref f => [encM 0xA8#8 f]
  | .fence f => [encM 0xA9#8 f]
  | .smap f => [encR 0xAA#8 f]
  | .sflush f => [encM 0xAB#8 f]
  | .sinv f => [encM 0xAC#8 f]
  | .tld f x => [encR 0xAD#8 f, encTensorX x]
  | .tst f x => [encR 0xAE#8 f, encTensorX x]
  | .hset f => [encR 0xAF#8 f]
  | .hget f => [encR 0xB0#8 f]
  | .qpush f => [encR 0xC0#8 f]
  | .qpop f => [encR 0xC1#8 f]
  | .qstat f => [encR 0xC2#8 f]
  | .qld f x => [encR 0xC3#8 f, encStreamX x]
  | .qst f x => [encR 0xC4#8 f, encStreamX x]
  | .plaunch f x => [encR 0xC5#8 f, encPlaunchX x]
  | .psync f => [encR 0xC6#8 f]
  | .qclose f => [encR 0xC7#8 f]
  | .cpy f x => [encR 0xD0#8 f, encCpyX x]
  | .cpyg f x => [encR 0xD1#8 f, encCpygX x]
  | .cpyh f x => [encR 0xD2#8 f, encCpyhX x]
  | .cpys f x => [encR 0xD3#8 f, encCpysX x]
  | .cpyq f x => [encR 0xD4#8 f, encCpyqX x]
  | .twait f => [encR 0xD5#8 f]
  | .tffr f => [encR 0xD6#8 f]
  | .tclr f => [encR 0xD7#8 f]
  | .mma f x => [encR 0xE0#8 f, encMmaX x]
  | .mmas f x => [encR 0xE1#8 f, encMmaX x]
  | .mmad f x => [encR 0xE2#8 f, encMmaX x]
  | .mzero f => [encR 0xE3#8 f]
  | .mrd f => [encR 0xE4#8 f]
  | .mwr f => [encR 0xE5#8 f]
  | .mres f => [encR 0xE6#8 f]
  | .mstat f => [encR 0xE7#8 f]
  | .tex f x => [encR 0xF0#8 f, encTexX x]
  | .texg f x => [encR 0xF1#8 f, encTexX x]
  | .texq f => [encR 0xF2#8 f]
  | .rast f x => [encR 0xF3#8 f, encRastX x]
  | _ => []

/-- The instruction an opcode names, its fields read from the first word `w` and the extension word `x`, reserved bits
ignored; none for an unassigned opcode (Table 2.7). -/
def parseWords (op : Nat) (w x : W64) : Option Instr :=
  match op with
  | 0x00 => some (.nop (decR w))
  | 0x01 => some (.bra (decB w))
  | 0x02 => some (.brx (decB w))
  | 0x03 => some (.call (decB w))
  | 0x04 => some (.ret (decR w))
  | 0x05 => some (.rjoin (decB w))
  | 0x06 => some (.fuse (decR w))
  | 0x07 => some (.exit (decR w))
  | 0x08 => some (.yield (decR w))
  | 0x09 => some (.sleep (decI w))
  | 0x0A => some (.bkpt (decI w))
  | 0x0B => some (.trap (decI w))
  | 0x0C => some (.hret (decR w))
  | 0x0D => some (.migrate (decR w))
  | 0x0E => some (.spawn (decR w) (decSpawnX x))
  | 0x0F => some (.regroup (decR w) (decRegroupX x))
  | 0x10 => some (.bar (decR w))
  | 0x11 => some (.bararv (decR w))
  | 0x12 => some (.barwt (decR w))
  | 0x13 => some (.waitmem (decM w))
  | 0x14 => some (.srd (decR w))
  | 0x15 => some (.swr (decR w))
  | 0x16 => some (.publish (decR w) (decPublishX x))
  | 0x17 => some (.tlbinv (decR w))
  | 0x18 => some (.cwb (decM w))
  | 0x19 => some (.cinv (decM w))
  | 0x20 => some (.vote (decR w))
  | 0x21 => some (.kop (decR w))
  | 0x22 => some (.kpopc (decR w))
  | 0x23 => some (.kffs (decR w))
  | 0x24 => some (.rdfirst (decR w))
  | 0x25 => some (.shfl (decR w))
  | 0x26 => some (.perm (decR w))
  | 0x27 => some (.compress (decR w))
  | 0x28 => some (.expand (decR w))
  | 0x29 => some (.reduce (decR w))
  | 0x2A => some (.scan (decR w))
  | 0x2B => some (.segred (decR w))
  | 0x2C => some (.segscan (decR w))
  | 0x2D => some (.vrdx (decR w))
  | 0x2E => some (.vwrx (decR w))
  | 0x40 => some (.iadd (decR w))
  | 0x41 => some (.isub (decR w))
  | 0x42 => some (.iaddc (decR w))
  | 0x43 => some (.imul (decR w))
  | 0x44 => some (.imulh (decR w))
  | 0x45 => some (.imad (decR w))
  | 0x46 => some (.imadw (decR w))
  | 0x47 => some (.imin (decR w))
  | 0x48 => some (.imax (decR w))
  | 0x49 => some (.iabs (decR w))
  | 0x4A => some (.iand (decR w))
  | 0x4B => some (.ior (decR w))
  | 0x4C => some (.ixor (decR w))
  | 0x4D => some (.shl (decR w))
  | 0x4E => some (.shr (decR w))
  | 0x4F => some (.sra (decR w))
  | 0x50 => some (.rot (decR w))
  | 0x51 => some (.bfe (decR w))
  | 0x52 => some (.bfi (decR w))
  | 0x53 => some (.popc (decR w))
  | 0x54 => some (.clz (decR w))
  | 0x55 => some (.brev (decR w))
  | 0x56 => some (.icmp (decR w))
  | 0x57 => some (.sel (decR w))
  | 0x58 => some (.mov (decR w))
  | 0x59 => some (.movi (decMovi w))
  | 0x5A => some (.lea (decR w))
  | 0x5B => some (.icvt (decR w))
  | 0x5C => some (.idiv (decR w))
  | 0x5D => some (.irem (decR w))
  | 0x70 => some (.fadd (decR w))
  | 0x71 => some (.fsub (decR w))
  | 0x72 => some (.fmul (decR w))
  | 0x73 => some (.ffma (decR w))
  | 0x74 => some (.fmin (decR w))
  | 0x75 => some (.fmax (decR w))
  | 0x76 => some (.fcmp (decR w))
  | 0x77 => some (.fclass (decR w))
  | 0x78 => some (.frnd (decR w))
  | 0x79 => some (.frcp (decR w))
  | 0x7A => some (.frsq (decR w))
  | 0x7B => some (.fsqrt (decR w))
  | 0x7C => some (.fdiv (decR w))
  | 0x7D => some (.fex2 (decR w))
  | 0x7E => some (.flg2 (decR w))
  | 0x7F => some (.fsin (decR w))
  | 0x80 => some (.fcos (decR w))
  | 0x81 => some (.fcvt (decR w))
  | 0x82 => some (.ftoi (decR w))
  | 0x83 => some (.itof (decR w))
  | 0x84 => some (.qnt (decR w))
  | 0x85 => some (.dqnt (decR w))
  | 0x86 => some (.pack (decR w))
  | 0x87 => some (.unpack (decR w))
  | 0xA0 => some (.ld (decM w))
  | 0xA1 => some (.st (decM w))
  | 0xA2 => some (.atom (decA w))
  | 0xA3 => some (.atomn (decA w))
  | 0xA4 => some (.xadd (decA w))
  | 0xA5 => some (.xrnd (decM w))
  | 0xA6 => some (.compst (decM w))
  | 0xA7 => some (.expld (decM w))
  | 0xA8 => some (.pref (decM w))
  | 0xA9 => some (.fence (decM w))
  | 0xAA => some (.smap (decR w))
  | 0xAB => some (.sflush (decM w))
  | 0xAC => some (.sinv (decM w))
  | 0xAD => some (.tld (decR w) (decTensorX x))
  | 0xAE => some (.tst (decR w) (decTensorX x))
  | 0xAF => some (.hset (decR w))
  | 0xB0 => some (.hget (decR w))
  | 0xC0 => some (.qpush (decR w))
  | 0xC1 => some (.qpop (decR w))
  | 0xC2 => some (.qstat (decR w))
  | 0xC3 => some (.qld (decR w) (decStreamX x))
  | 0xC4 => some (.qst (decR w) (decStreamX x))
  | 0xC5 => some (.plaunch (decR w) (decPlaunchX x))
  | 0xC6 => some (.psync (decR w))
  | 0xC7 => some (.qclose (decR w))
  | 0xD0 => some (.cpy (decR w) (decCpyX x))
  | 0xD1 => some (.cpyg (decR w) (decCpygX x))
  | 0xD2 => some (.cpyh (decR w) (decCpyhX x))
  | 0xD3 => some (.cpys (decR w) (decCpysX x))
  | 0xD4 => some (.cpyq (decR w) (decCpyqX x))
  | 0xD5 => some (.twait (decR w))
  | 0xD6 => some (.tffr (decR w))
  | 0xD7 => some (.tclr (decR w))
  | 0xE0 => some (.mma (decR w) (decMmaX x))
  | 0xE1 => some (.mmas (decR w) (decMmaX x))
  | 0xE2 => some (.mmad (decR w) (decMmaX x))
  | 0xE3 => some (.mzero (decR w))
  | 0xE4 => some (.mrd (decR w))
  | 0xE5 => some (.mwr (decR w))
  | 0xE6 => some (.mres (decR w))
  | 0xE7 => some (.mstat (decR w))
  | 0xF0 => some (.tex (decR w) (decTexX x))
  | 0xF1 => some (.texg (decR w) (decTexX x))
  | 0xF2 => some (.texq (decR w))
  | 0xF3 => some (.rast (decR w) (decRastX x))
  | _ => none

/-- Is it a two-word opcode (R36)? -/
def twoWord (op : Nat) : Bool :=
  op == 0x0E || op == 0x0F || op == 0x16 || op == 0xAD || op == 0xAE || (0xC3 ≤ op && op ≤ 0xC5) ||
  (0xD0 ≤ op && op ≤ 0xD4) || (0xE0 ≤ op && op ≤ 0xE2) || op == 0xF0 || op == 0xF1 || op == 0xF3

/-- The opcode of a D-form word. -/
def opOf (w : W64) : Nat := (w.extractLsb' 56 8).toNat

/-- Decodes the D-form word `w`, followed in its block by `x` if anything follows it (R27, R29, Table 2.8). -/
def decodeWords (w : W64) (x : Option W64) : Decoded :=
  match parseWords (opOf w) w (x.getD 0) with
  | none => .bad .unassigned
  | some i =>
    if twoWord (opOf w) then
      match x with
      | none => .bad .cut
      | some x => if encode i == [w, x] then .ok i else .bad .reserved
    else if encode i == [w] then .ok i else .bad .reserved

/-- First-word formats, for Table 2.11. -/
inductive WordFmt where
  | r | b | m | a
deriving DecidableEq, Repr, Inhabited

/-- The first-word format of an opcode (R30 to R34). -/
def wordFmtOf (op : Nat) : WordFmt :=
  if op == 0x01 || op == 0x02 || op == 0x03 || op == 0x05 then .b
  else if op == 0xA2 || op == 0xA3 || op == 0xA4 then .a
  else if op == 0x13 || op == 0x18 || op == 0x19 || op == 0xA0 || op == 0xA1 || (0xA5 ≤ op && op ≤ 0xA9) ||
    op == 0xAB || op == 0xAC then .m
  else .r

/-- The 60 bits kept of a first word (Table 2.11), and the word rebuilt from them. -/
def packFirst (f : WordFmt) (w : W64) : BitVec 60 :=
  match f with
  | .r => w.extractLsb' 56 8 ++ w.extractLsb' 45 9 ++ w.extractLsb' 0 43
  | .b => w.extractLsb' 56 8 ++ w.extractLsb' 0 52
  | .m => w.extractLsb' 46 18 ++ w.extractLsb' 35 8 ++ w.extractLsb' 0 34
  | .a => w.extractLsb' 49 15 ++ w.extractLsb' 44 4 ++ w.extractLsb' 34 8 ++ w.extractLsb' 0 33
def unpackFirst (f : WordFmt) (x : BitVec 60) : W64 :=
  match f with
  | .r => x.extractLsb' 52 8 ++ 0#2 ++ x.extractLsb' 43 9 ++ 0#2 ++ x.extractLsb' 0 43
  | .b => x.extractLsb' 52 8 ++ 0#4 ++ x.extractLsb' 0 52
  | .m => x.extractLsb' 42 18 ++ 0#3 ++ x.extractLsb' 34 8 ++ 0#1 ++ x.extractLsb' 0 34
  | .a => x.extractLsb' 45 15 ++ 0#1 ++ x.extractLsb' 41 4 ++ 0#2 ++ x.extractLsb' 33 8 ++ 0#1 ++ x.extractLsb' 0 33
/-- An extension word loses the bits R36 reserves. -/
def packExt (w : W64) : BitVec 60 := w.extractLsb' 32 30 ++ w.extractLsb' 0 30
def unpackExt (x : BitVec 60) : W64 := 0#2 ++ x.extractLsb' 30 30 ++ 0#2 ++ x.extractLsb' 0 30
/-- A header loses four of its reserved bits. -/
def packHeader (w : W64) : BitVec 60 := w.extractLsb' 22 42 ++ w.extractLsb' 0 18
def unpackHeader (x : BitVec 60) : W64 := x.extractLsb' 18 42 ++ 0#4 ++ x.extractLsb' 0 18

/-- The two units of 60 bits, tagged (R55, R56). -/
def unitsOf (hiTag loTag : BitVec 2) (x : BitVec 60) : List W32 :=
  [x.extractLsb' 30 30 ++ hiTag, x.extractLsb' 0 30 ++ loTag]
/-- The 60 bits two units carry. -/
def joinUnits (u v : W32) : BitVec 60 := u.extractLsb' 2 30 ++ v.extractLsb' 2 30

/-- The tag of a unit (R55). -/
def unitTag (u : W32) : Nat := (u.extractLsb' 0 2).toNat

/-- A compact unit (Table 2.12). -/
def encC (cop : BitVec 6) (f : CF) : W32 := cop ++ f.k ++ bit1 f.sc ++ f.d ++ f.a ++ f.b ++ 0b01#2
def encCu (cop : BitVec 6) (f : CU) : W32 := cop ++ f.k ++ bit1 f.sc ++ f.d ++ f.a ++ 0b000000001#9
def encCk (cop : BitVec 6) (k : BitVec 2) : W32 := cop ++ k ++ 0x000001#24
def decC (u : W32) : CF :=
  { k := u.extractLsb' 24 2, sc := u.getLsbD 23, d := u.extractLsb' 16 7, a := u.extractLsb' 9 7, b := u.extractLsb' 2 7 }
def decCu (u : W32) : CU :=
  { k := u.extractLsb' 24 2, sc := u.getLsbD 23, d := u.extractLsb' 16 7, a := u.extractLsb' 9 7 }

/-- The unit of a compact instruction (Table 2.13). -/
def encodeCompact : Instr → Option W32
  | .nopCompact => some (encCk 0x00#6 0)
  | .movI32Compact f => some (encCu 0x01#6 f)
  | .iaddI32CompactReg f => some (encC 0x02#6 f)
  | .iaddI32CompactImm f => some (encC 0x03#6 f)
  | .isubI32CompactReg f => some (encC 0x04#6 f)
  | .isubI32CompactImm f => some (encC 0x05#6 f)
  | .imulI32CompactReg f => some (encC 0x06#6 f)
  | .imulI32CompactImm f => some (encC 0x07#6 f)
  | .iandI32CompactReg f => some (encC 0x08#6 f)
  | .iandI32CompactImm f => some (encC 0x09#6 f)
  | .iorI32Compact f => some (encC 0x0A#6 f)
  | .ixorI32Compact f => some (encC 0x0B#6 f)
  | .shlI32Compact f => some (encC 0x0C#6 f)
  | .shrN32Compact f => some (encC 0x0D#6 f)
  | .sraI32Compact f => some (encC 0x0E#6 f)
  | .iminI32Compact f => some (encC 0x0F#6 f)
  | .imaxI32Compact f => some (encC 0x10#6 f)
  | .iaddI64CompactReg f => some (encC 0x11#6 f)
  | .iaddI64CompactImm f => some (encC 0x12#6 f)
  | .popcN32Compact f => some (encCu 0x13#6 f)
  | .clzN32Compact f => some (encCu 0x14#6 f)
  | .faddF32Compact f => some (encC 0x20#6 f)
  | .fsubF32Compact f => some (encC 0x21#6 f)
  | .fmulF32CompactReg f => some (encC 0x22#6 f)
  | .fmulF32CompactImm f => some (encC 0x23#6 f)
  | .fminF32Compact f => some (encC 0x24#6 f)
  | .fmaxF32Compact f => some (encC 0x25#6 f)
  | .faddF64Compact f => some (encC 0x26#6 f)
  | .fmulF64Compact f => some (encC 0x27#6 f)
  | .faddF16Compact f => some (encC 0x28#6 f)
  | .fmulF16Compact f => some (encC 0x29#6 f)
  | .fsqrtF32Compact f => some (encCu 0x2A#6 f)
  | .exitCompact k => some (encCk 0x30#6 k)
  | .retCompact k => some (encCk 0x31#6 k)
  | .fuseCompact => some (encCk 0x32#6 0)
  | .yieldCompact => some (encCk 0x33#6 0)
  | .srdCompact f => some (encCu 0x34#6 f)
  | _ => none

/-- The compact instruction a compact code names, reserved bits ignored; none for an unassigned code (R58). -/
def parseCompact (cop : Nat) (u : W32) : Option Instr :=
  match cop with
  | 0x00 => some .nopCompact
  | 0x01 => some (.movI32Compact (decCu u))
  | 0x02 => some (.iaddI32CompactReg (decC u))
  | 0x03 => some (.iaddI32CompactImm (decC u))
  | 0x04 => some (.isubI32CompactReg (decC u))
  | 0x05 => some (.isubI32CompactImm (decC u))
  | 0x06 => some (.imulI32CompactReg (decC u))
  | 0x07 => some (.imulI32CompactImm (decC u))
  | 0x08 => some (.iandI32CompactReg (decC u))
  | 0x09 => some (.iandI32CompactImm (decC u))
  | 0x0A => some (.iorI32Compact (decC u))
  | 0x0B => some (.ixorI32Compact (decC u))
  | 0x0C => some (.shlI32Compact (decC u))
  | 0x0D => some (.shrN32Compact (decC u))
  | 0x0E => some (.sraI32Compact (decC u))
  | 0x0F => some (.iminI32Compact (decC u))
  | 0x10 => some (.imaxI32Compact (decC u))
  | 0x11 => some (.iaddI64CompactReg (decC u))
  | 0x12 => some (.iaddI64CompactImm (decC u))
  | 0x13 => some (.popcN32Compact (decCu u))
  | 0x14 => some (.clzN32Compact (decCu u))
  | 0x20 => some (.faddF32Compact (decC u))
  | 0x21 => some (.fsubF32Compact (decC u))
  | 0x22 => some (.fmulF32CompactReg (decC u))
  | 0x23 => some (.fmulF32CompactImm (decC u))
  | 0x24 => some (.fminF32Compact (decC u))
  | 0x25 => some (.fmaxF32Compact (decC u))
  | 0x26 => some (.faddF64Compact (decC u))
  | 0x27 => some (.fmulF64Compact (decC u))
  | 0x28 => some (.faddF16Compact (decC u))
  | 0x29 => some (.fmulF16Compact (decC u))
  | 0x2A => some (.fsqrtF32Compact (decCu u))
  | 0x30 => some (.exitCompact (u.extractLsb' 24 2))
  | 0x31 => some (.retCompact (u.extractLsb' 24 2))
  | 0x32 => some .fuseCompact
  | 0x33 => some .yieldCompact
  | 0x34 => some (.srdCompact (decCu u))
  | _ => none

/-- Decodes a unit tagged 01 (R57, Table 2.8). -/
def decodeCompact (u : W32) : Decoded :=
  match parseCompact (u.extractLsb' 26 6).toNat u with
  | none => .bad .unassigned
  | some i => if encodeCompact i == some u then .ok i else .bad .reserved

/-- TRAPWORD0 of a compact unit (R46): the R-format word that R57 builds from it, with K2, S, D7 and A7 as they stand, also
in a NOP, EXIT, RET, FUSE or YIELD, whose unit shall have D7, A7 and S zero; the raw unit for an unassigned code. R57 gives B7
no place in the word where it shall be zero (assumption 13). -/
def compactWord (u : W32) : W64 :=
  let bare := expandUn 0 (decCu u)
  match (u.extractLsb' 26 6).toNat with
  | 0x00 => encR 0x00#8 bare
  | 0x30 => encR 0x07#8 bare
  | 0x31 => encR 0x04#8 bare
  | 0x32 => encR 0x06#8 bare
  | 0x33 => encR 0x08#8 bare
  | cop =>
    match (parseCompact cop u).map fun i => encode (expand i) with
    | some [w] => w
    | _ => 0#32 ++ u

/-- Decodes the units that stand at an instruction's place in an L block (R55, R56), with the first word and the
extension word in D form (R46) and the number of units read. Where the units of the extension word carry wrong tags, the
second of the words is 0 (assumption 13). -/
def decodeUnits : List W32 → Decoded × W64 × W64 × Nat
  | [] => (.bad .short, 0, 0, 0)
  | u :: us =>
    if unitTag u == 1 then (decodeCompact u, compactWord u, 0, 1)
    else if unitTag u == 2 then
      match us with
      | v :: vs =>
        if unitTag v == 3 then
          let x := joinUnits u v
          let op := (x.extractLsb' 52 8).toNat
          let w := unpackFirst (wordFmtOf op) x
          if twoWord op then
            match vs with
            | p :: q :: _ =>
              if unitTag p == 2 && unitTag q == 3 then
                let e := unpackExt (joinUnits p q)
                (decodeWords w (some e), w, e, 4)
              else (.bad .tag, w, 0, 2)
            | _ => (decodeWords w none, w, 0, 2)
          else (decodeWords w none, w, 0, 2)
        else (.bad .tag, 0#32 ++ u, 0, 1)
      | [] => (.bad .tag, 0#32 ++ u, 0, 1)
    else (.bad .tag, 0#32 ++ u, 0, 1)

/-- Decodes the D-form words that stand at an instruction's place in a D block, with the words and their number. -/
def decodeDWords : List W64 → Decoded × W64 × W64 × Nat
  | [] => (.bad .short, 0, 0, 0)
  | w :: ws =>
    match ws with
    | [] => (decodeWords w none, w, 0, 1)
    | x :: _ => if twoWord (opOf w) then (decodeWords w (some x), w, x, 2) else (decodeWords w (some x), w, 0, 1)

/-- The L-encoding units of an instruction: its compact unit, or two units for each D-form word (R56, R57). -/
def encodeUnits (i : Instr) : List W32 :=
  match encodeCompact i with
  | some u => [u]
  | none =>
    match encode i with
    | [w] => unitsOf 0b10#2 0b11#2 (packFirst (wordFmtOf (opOf w)) w)
    | [w, x] => unitsOf 0b10#2 0b11#2 (packFirst (wordFmtOf (opOf w)) w) ++ unitsOf 0b10#2 0b11#2 (packExt x)
    | _ => []

/-- Little-endian words of a run of bytes, whole words only (R2, R24, R55). -/
def wordsOfBytes : List Byte → List W64
  | a :: b :: c :: d :: e :: f :: g :: h :: t => (h ++ g ++ f ++ e ++ d ++ c ++ b ++ a) :: wordsOfBytes t
  | _ => []
def halvesOfBytes : List Byte → List W32
  | a :: b :: c :: d :: t => (d ++ c ++ b ++ a) :: halvesOfBytes t
  | _ => []

/-- The two decoders on bytes: D-encoding and L-encoding. -/
def decodeBytesD (bs : List Byte) : Decoded := (decodeDWords (wordsOfBytes bs)).1
def decodeBytesL (bs : List Byte) : Decoded := (decodeUnits (halvesOfBytes bs)).1

/-- The instruction of a decoder's answer. -/
def Decoded.instr? : Decoded → Option Instr
  | .ok i => some i
  | .bad _ => none

/-- The decoder on an opcode-table word: a 32-bit row is an L-encoding unit, every other row is D-encoding words; the
words are laid out in memory order, bits above `nbits` zero. -/
def decodeTableWord (nbits w : Nat) : Option Instr :=
  if nbits ≤ 32 then (decodeBytesL (bytesOf 16 (w % 2 ^ nbits))).instr?
  else (decodeBytesD (bytesOf 16 (w % 2 ^ nbits))).instr?

end Sys2Proof
end

