-- ==== Sys2Proof/Machine/Store.lean ====
section
/-! DEFINITION. Sparse stores in one canonical form: keys strictly rising, no entry equal to what an unlisted key reads
as; and memory as such a store of bytes. -/
namespace Sys2Proof.Machine

/-- A sparse store: (key, value) pairs. -/
abbrev Store (α : Type) := List (Nat × α)

/-- The value at a key; `d` is what an unlisted key reads as. -/
def Store.get {α : Type} (d : α) : Store α → Nat → α
  | [], _ => d
  | (k, v) :: t, a => if a < k then d else if a == k then v else Store.get d t a

/-- Writes a value, keeping the canonical form: the default value removes the entry (in a list out of order, every later
entry of the key too, so that a read always gives what was written). -/
def Store.set {α : Type} [DecidableEq α] (d : α) : Store α → Nat → α → Store α
  | [], a, x => if x = d then [] else [(a, x)]
  | (k, v) :: t, a, x =>
    if a < k then (if x = d then (k, v) :: t else (a, x) :: (k, v) :: t)
    else if a == k then (if x = d then t.dropWhile (fun y => y.1 ≤ a) else (a, x) :: t)
    else (k, v) :: Store.set d t a x

/-- The canonical form: keys from `lo` on, strictly rising, no default value. -/
def Store.wfFrom {α : Type} [DecidableEq α] (d : α) : Nat → Store α → Bool
  | _, [] => true
  | lo, (k, v) :: t => lo ≤ k && v ≠ d && Store.wfFrom d (k + 1) t
/-- The canonical form. -/
def Store.wf {α : Type} [DecidableEq α] (d : α) (st : Store α) : Bool := Store.wfFrom d 0 st

/-- All memory of the module and all it reaches, as one store of bytes (Table 4.1). -/
abbrev Memory := List Host.Cell

/-- What a byte that nothing has written reads as: zero (Table 17.7 for GDDR7 after bring-up; DESIGN CHOICE for the stash,
host and peer memory: assumption 5). -/
def Memory.unlisted : Byte := 0#8

/-- The canonical form of memory. -/
def Memory.wf (m : Memory) : Bool := Store.wf Memory.unlisted m

/-- One byte. -/
def Memory.read (m : Memory) (a : Nat) : Byte := Store.get Memory.unlisted m a
/-- Writes one byte. -/
def Memory.write (m : Memory) (a : Nat) (b : Byte) : Memory := Store.set Memory.unlisted m a b

/-- `n` bytes from `a` on. -/
def Memory.readN (m : Memory) : Nat → Nat → List Byte
  | _, 0 => []
  | a, n + 1 => m.read a :: Memory.readN m (a + 1) n
/-- Writes bytes from `a` on. -/
def Memory.writeN : Memory → Nat → List Byte → Memory
  | m, _, [] => m
  | m, a, b :: bs => Memory.writeN (m.write a b) (a + 1) bs
/-- Writes the same byte into `n` bytes from `a` on. -/
def Memory.fill : Memory → Nat → Nat → Byte → Memory
  | m, _, 0, _ => m
  | m, a, n + 1, b => Memory.fill (m.write a b) (a + 1) n b

end Sys2Proof.Machine
end

