-- ==== Sys2Proof/Machine/State.lean ====
section
/-! DEFINITION. The state of the module as plain data (Tables 1.1, 2.9, 2.10, 5.1 to 5.4, 9.4, 13.1, 13.7, 14.8, 17.2 and
the rules each field cites), the reasons a step stops, and the state after reset. -/
namespace Sys2Proof.Machine
open Sys2Proof

/-- An instruction address: a word address on D-cores, a unit address on L-cores (R24, R55). -/
abbrev PC := BitVec 49

/-! ### Translations held (R409, R410) -/

/-- Where a translation is held: a sub-core's L0, a core's L1 or a die's L2. -/
inductive TlbLevel where
  | l0 (core sub : Nat)
  | l1 (core : Nat)
  | l2
deriving DecidableEq, Repr, Inhabited

/-- A translation that a TLB level or a probe stage holds: context, virtual page, page size as a power of two above 4 KiB,
the PTE. -/
structure TlbEntry where
  lvl : TlbLevel
  ctx : Nat
  vpn : Nat
  sz : Nat
  w0 : W64
  w1 : W64
deriving DecidableEq, Repr, Inhabited

/-! ### Splits (chapter 5) -/

/-- STATE of a split-table entry (Table 5.3). FREE entries are not held. -/
inductive SplitState where
  | ready | rjwait | ffwait | barwait | sleep | trapq | migq
deriving DecidableEq, Repr, Inhabited

/-- A rejoin record (Table 5.1). -/
structure RjRec where
  addr : PC
  late : Bool
  mask : Mask
deriving DecidableEq, Repr, Inhabited

/-- A fetched and checked block (R25, R27): the header's address, its fields, and the words that follow it (D-form words,
or units in the low half). -/
structure Blk where
  hdr : PC
  len : Nat
  live : Nat
  rejoin : Option PC
  eqv : Bool
  yh : Bool
  words : List W64
deriving DecidableEq, Repr, Inhabited

/-- A deferral (Table 5.4), with the block its lanes stand in. -/
structure Deferral where
  mask : Mask
  pc : PC
  held : Bool
  /-- H of the split when it was made: a handler leaves the trapped split's deferrals alone (R166) -/
  h : Bool
  rj : Option PC
  owner : Nat
  blk : Option Blk
  /-- barrier and token of an arrival that a re-issue shall not repeat (R190) -/
  posted : Option (Nat × W32)
deriving DecidableEq, Repr, Inhabited

/-- A trap as R407 and R417 describe it: cause, subcause and the trap registers it will set. -/
structure Trap where
  cause : Nat
  sub : Nat
  mask : Mask
  addr : W64
  pc : PC
  pc2 : W64
  word0 : W64
  word1 : W64
  /-- the wave's registers, a header or a fetch fault: HRET `.skip` is refused (R184) -/
  hdr : Bool
deriving DecidableEq, Repr, Inhabited

/-- What a trap was raised for, beyond its registers: work of another engine that HRET restarts or drops (R313, R347). -/
inductive HeldWork where
  | none
  /-- the head entry of a queue (R311) -/
  | entry (q : Nat)
  /-- the access thread's own instruction or fetch (R312) -/
  | thread
  /-- a QST stream's element, or the held fault of its index entry (R312) -/
  | stream (id : Nat) (index : Bool)
  /-- a copy stopped under a tag (R347) -/
  | copy (tag : Nat)
deriving DecidableEq, Repr, Inhabited

/-- The supervisor handler a split runs (R418): the frame, the trapped split's mask and block, the work held. -/
structure Handler where
  frame : W64
  mask : Mask
  blk : Option Blk
  work : HeldWork
  hdr : Bool
  /-- the trapped split's arrival that a re-issue shall not repeat (R190): the handler's own barriers do not use it -/
  posted : Option (Nat × W32)
  /-- the address of the trap: what a handler sends elsewhere re-issues nothing -/
  pc : PC
deriving DecidableEq, Repr, Inhabited

/-- A fixed-latency result not yet readable in native mode (R51): register (v-registers), lanes, and the cycle it is
readable from. -/
structure Hazard where
  reg : Nat
  lanes : Mask
  ready : Nat
deriving DecidableEq, Repr, Inhabited

/-- What a split in BARWAIT waits for (R189, R191). -/
inductive BarWait where
  | bar (b : Nat) (token : W32)
  | regroup (part : BitVec 16) (live : Mask) (ty : Nat) (d : Nat) (key : Operand)
deriving DecidableEq, Repr, Inhabited

/-- One lane's access: lane, virtual address, physical key, store value, compare value. -/
structure LaneAcc where
  lane : Nat
  va : Nat
  key : Nat
  val : Nat
  cmp : Nat
deriving DecidableEq, Repr, Inhabited

/-- A WAITMEM in progress (R187): the lanes not latched, each with its place and DATA; the access size; the scalar form. -/
structure WaitMem where
  lanes : List LaneAcc
  size : Nat
  scalar : Bool
deriving DecidableEq, Repr, Inhabited

/-- A split-table entry (Tables 5.1, 5.2). AGE is the rank of `born` among the sub-core's entries. -/
structure Split where
  idx : Nat
  mask : Mask
  pc : PC
  state : SplitState
  skip : Bool
  cur : Bool
  stop : Bool
  h : Bool
  born : Nat
  rj : List RjRec
  lf : W32
  deadline : W32
  tseq : W32
  trap : Option Trap
  work : HeldWork
  handler : Option Handler
  blk : Option Blk
  /-- sub-core cycles of SLEEP left (R186) -/
  sleep : Nat
  waitmem : Option WaitMem
  bar : Option BarWait
  /-- CLOCK's latched high half, if a read of the low half latched one (R193) -/
  clockHi : Option W32
  /-- earliest cycle of the next issue (R51) -/
  nextIssue : Nat
  hazards : List Hazard
  /-- R161's count of ready cycles, R159's count of miss-split cycles -/
  readyCount : Nat
  missCount : Nat
  /-- the forced fuse and the check of R157 are done for the instruction at `pc` -/
  fused : Bool
  /-- barrier and token of an arrival that a re-issue shall not repeat (R190) -/
  posted : Option (Nat × W32)
  /-- the number of the PSYNC that the split has issued and waits at (R308) -/
  sync : Option Nat
  /-- translations held for the pending instruction, newest first (R409) -/
  held : List TlbEntry
  /-- accesses that an issued TLBINV waits for, by number (R434) -/
  inval : List Nat
deriving DecidableEq, Repr, Inhabited

/-! ### Engines' state that belongs to a wave -/

/-- A fault held in a queue entry, a stream or a thread (R310 to R312). -/
structure HeldFault where
  cause : Nat
  sub : Nat
  mask : Mask
  addr : W64
  pc : PC
  /-- a split has raised it; HRET decides what becomes of its work (R313) -/
  taken : Bool
deriving DecidableEq, Repr, Inhabited

/-- An operand queue's entry (R292, R311); `src` names the streams that stand still behind a faulted one. -/
structure QEntry where
  valid : Mask
  elems : Store W32
  fault : Option HeldFault
  src : List Nat
deriving DecidableEq, Repr, Inhabited

/-- Producer side (R293). -/
inductive Side where
  | none | porter | execute
deriving DecidableEq, Repr, Inhabited

/-- A bound operand queue (R292, R293, R307). -/
structure OpQueue where
  name : Nat
  prod : Side
  closed : Bool
  entries : List QEntry
deriving DecidableEq, Repr, Inhabited

/-- An active stream (R293, R298 to R301, R316). -/
structure PStream where
  id : Nat
  isLoad : Bool
  indexed : Bool
  pc : PC
  base : W64
  counts : List Nat
  strides : List W32
  sh : Nat
  mty : BitVec 4
  qi : Nat
  qd : Nat
  /-- entries an indexed stream may still take; none: no limit -/
  limit : Option Nat
  /-- next element (affine) or entry (indexed) -/
  next : Nat
  /-- an index entry taken whose own entry is to be formed again (R313) -/
  pre : Option QEntry
  /-- it stands behind a faulted entry of its queue (R311) -/
  stopped : Bool
  /-- its next entry is one that faulted, formed again in its place (R313) -/
  again : Bool
  /-- bytes, by place, as they stood when a later access of the thread came to them first: a load stream's elements read
  these (R309) -/
  early : List (Nat × Byte)
  fault : Option HeldFault
  /-- the held fault is the index entry's (R312) -/
  faultIdx : Bool
deriving DecidableEq, Repr, Inhabited

/-- The access thread (R291). -/
structure Thread where
  pc : PC
  regs : Store W32
  empty : List Nat
  psync : Nat
  blk : Option Blk
  fault : Option HeldFault
  /-- held at its PSYNC `psync` + 1, not yet released -/
  atSync : Bool
  done : Bool
  issued : Nat
  /-- CLOCK's latched high half (R193) -/
  clockHi : Option W32
deriving DecidableEq, Repr, Inhabited

/-- An accumulator tile (R352): name and elements 16i + j. -/
structure Tile where
  name : Nat
  elems : Store W32
deriving DecidableEq, Repr, Inhabited

/-- A bound operand stream or metadata queue (R350): kind 0 A-stream, 1 B-stream, 2 metadata; its entries in order, and
the entries that issued copies still owe. -/
structure MStream where
  kind : Nat
  name : Nat
  entries : List (List Byte)
  owed : Nat
  /-- the copy that owes them has been abandoned: they are zero bytes (R359) -/
  zeros : Bool
deriving DecidableEq, Repr, Inhabited

/-- A queued matrix instruction (R356 to R358): the instruction, where and from which entry it issued, the steps already
applied, the register values and MODE read at issue. -/
structure MCmd where
  instr : Instr
  pc : PC
  entry : Nat
  step : Nat
  vals : List W32
  idxs : List W32
  mode : W32
deriving DecidableEq, Repr, Inhabited

/-- A FENCE that lanes have passed (R119, R274): ORD, and the number of the first access after it. -/
structure FenceMark where
  lanes : Mask
  ord : Nat
  first : Nat
deriving DecidableEq, Repr, Inhabited

/-- A wave parked by MIGRATE (R449, R450): D, target class, the sub-core cycles its limit leaves (none: no limit), when it
parked and the next header. -/
structure Parked where
  d : Nat
  toL : Bool
  limit : Option Nat
  since : Nat
  next : PC
deriving DecidableEq, Repr, Inhabited

/-- A resident or saved wave with everything that belongs to it. -/
structure Wave where
  live : Bool
  uid : Nat
  ctx : Nat
  die : Nat
  core : Nat
  sub : Nat
  slot : Nat
  team : Nat
  grid : Nat
  waveId : Nat
  width : Nat
  regs : Nat
  qbase : Nat
  rbase : Nat
  ver : Nat
  mode : W32
  /-- v-register n of lane l at key 64n + l -/
  v : Store W32
  s : Store W32
  /-- k1 to k15 -/
  k : Store W64
  /-- word w of handle h at key 8h + w -/
  h : Store W32
  /-- empty quads: v-register n, quad q at key 16n + q (R53) -/
  vEmpty : List Nat
  sEmpty : List Nat
  /-- lanes whose v-register holds an undefined value: dead at a block's entry, unwritten by a map (Table 2.1, R192, R447) -/
  undef : Store Mask
  exited : Mask
  seq : W32
  tCause : W32
  tPc : W64
  tPc2 : W64
  tWord0 : W64
  tWord1 : W64
  tMask : W64
  tAddr : W64
  cur : Split
  others : List Split
  defs : List Deferral
  psync : Nat
  /-- PSYNC pairs released (R308) -/
  released : Nat
  /-- the number of the next access when each PSYNC since PLAUNCH issued (R308) -/
  syncIds : List Nat
  thread : Option Thread
  streams : List PStream
  queues : List OpQueue
  tiles : List Tile
  mstreams : List MStream
  mcmds : List MCmd
  mNan : Bool
  mMism : Bool
  parked : Option Parked
  /-- accesses of the context numbered below this are performed before any later one of the wave: a team barrier, and what
  a launch or restore follows (R130, R131, R133) -/
  fence : Nat
  /-- fences that some earlier access may still have to meet -/
  marks : List FenceMark
  /-- MODE from the next sub-core cycle on, once SWR has written it (R194) -/
  modeNext : Option W32
deriving DecidableEq, Repr, Inhabited

/-! ### Undefined contents (R4, R275) -/

/-- A run of places whose contents are undefined until they are written: its first place and length, the draw it came from,
and the index in that draw of its first byte (assumption 5). -/
structure RawRun where
  lo : Nat
  len : Nat
  draw : Nat
  src : Nat
deriving DecidableEq, Repr, Inhabited

/-! ### Accesses in flight -/

/-- What an access does when it is performed. -/
inductive AccKind where
  | load (mty : Nat)
  | store (size : Nat)
  | xrnd (mty : Nat)
  | atom (aop aty : Nat) (ret : Bool)
  | xadd (aty : Nat)
  /-- TLD: element type, block count, and each lane's element index within its block -/
  | tload (ety : Nat) (sdb : Bool) (ecount : Nat)
  /-- TST of an e2m1 element: read-modify-write of a byte's half -/
  | tstore4
  | texture
  /-- a raster batch's status -/
  | raster
  /-- PUBLISH's staging and verdict -/
  | publish (base len : Nat)
deriving DecidableEq, Repr, Inhabited

/-- An access issued and not yet performed in every lane (R260, R432), with the texels' result of a texture request. -/
structure Pending where
  id : Nat
  uid : Nat
  die : Nat
  core : Nat
  ctx : Nat
  team : Nat
  thread : Bool
  /-- the address of the instruction that made it -/
  pc : PC
  kind : AccKind
  ord : Nat
  fence : Nat
  /-- the fences its lanes had passed (R274) -/
  marks : List FenceMark
  scalar : Bool
  dst : Nat
  ndst : Nat
  lanes : List LaneAcc
  /-- the wave's MODE at issue -/
  mode : W32
  /-- further operands: TLD's blocks, a texture's descriptors and coordinates, PUBLISH's registers -/
  args : List Nat
deriving DecidableEq, Repr, Inhabited

/-! ### Teams, grids, bins, cores -/

/-- A team barrier (R188, R189). `arrived` are the waves counted; `lanes` the lanes that
have arrived of the others, each wave with the count operand of its latest arrival. -/
structure Bar where
  b : Nat
  arr : Nat
  exp : Nat
  gen : W32
  all : Bool
  arrived : List Nat
  lanes : List (Nat × Mask × Nat)
deriving DecidableEq, Repr, Inhabited

/-- A map slot (R277). -/
structure MapSlot where
  slot : Nat
  g : Nat
  o : Nat
  len : Nat
  ro : Bool
deriving DecidableEq, Repr, Inhabited

/-- A dirty mapped line (R279): slot, the virtual line, its physical key, and its bytes in the stash. -/
structure DirtyLine where
  slot : Nat
  va : Nat
  key : Nat
  bytes : List Byte
deriving DecidableEq, Repr, Inhabited

/-- A team (R136, R275, R276, R388). -/
structure Team where
  id : Nat
  ctx : Nat
  grid : Nat
  index : Nat
  die : Nat
  core : Nat
  /-- declared allocation, the allocation with frames, its stash offset, the window's address and span -/
  alloc : Nat
  size : Nat
  off : Nat
  win : Nat
  waves : Nat
  bars : List Bar
  maps : List MapSlot
  dirty : List DirtyLine
deriving DecidableEq, Repr, Inhabited

/-- A grid (R388 to R390). -/
structure Grid where
  uid : Nat
  gid : Nat
  ctx : Nat
  depth : Nat
  parent : Option Nat
  /-- it is made from raster records (R465) -/
  raster : Bool
  teams : Nat
  /-- teams not yet placed: (index, die) -/
  unplaced : List (Nat × Nat)
  ver : Nat
  entryD : Nat
  entryL : Nat
  lcore : Bool
  regs : Nat
  width : Nat
  waves : Nat
  stash : Nat
  regsL : Nat
  widthL : Nat
  winva : Nat
  args : W64
  seed : W32
  coop : Bool
  prio : Nat
  start : Nat
  released : Nat
  /-- the packet that started it: queue slot, DONE address and REL -/
  queue : Option Nat
  done : W64
  rel : Nat
deriving DecidableEq, Repr, Inhabited

/-- A thread record (R397): payload words, and the fabric cycles it has waited (R398). -/
structure Rec where
  words : List W32
  age : Nat
deriving DecidableEq, Repr, Inhabited

/-- A coach bin (R395). -/
structure Bin where
  num : Nat
  die : Nat
  parent : Nat
  entry : Nat
  child : Nat
  recs : List Rec
  /-- the release timer has expired for its oldest record (R398) -/
  timed : Bool
deriving DecidableEq, Repr, Inhabited

/-- A copy's command (R325 to R336, R391). -/
inductive CopyKind where
  | cpy (esize : Nat) (dims : List (Nat × W32 × W32))
  | cpyg (len : Nat) (spitch : Nat) (dpitch : W32) (rows : List W32)
  | cpyh (esize bmode edge halo : Nat) (w h p : Nat) (nb : List W64)
  | cpys (stream meta_ : Nat) (pat terms ety : Nat) (drop : Bool) (cp : W32) (nk : Nat) (cap bound : Nat)
  | cpyq (stream rows : Nat) (pitch step : W32) (n : Nat)
deriving DecidableEq, Repr, Inhabited

/-- A copy in flight (R345 to R348). `next` is its next chunk; `sig` its signal's address and place; `dest` every
destination byte and `owned` those not yet written, as runs of places (R127, R342, R343). CPYS carries between chunks its
residual count, the sum of the residual in units of 2^-16 with 1 for an infinite and 2 for a NaN one, and TUSED. -/
structure Copy where
  kind : CopyKind
  uid : Nat
  ctx : Nat
  /-- a handler's split issued it (SUP pages, R408) -/
  sup : Bool
  pc : PC
  src : W64
  dst : W64
  aux : W64
  next : Nat
  started : Bool
  sig : Option (Nat × Nat)
  dest : List (Nat × Nat)
  owned : List (Nat × Nat)
  rcount : Nat
  l1 : Nat
  l1x : Nat
  tused : Nat
  order : Nat
  /-- MODE.STRICT of its issue (R490) -/
  strict : Bool
  /-- accesses of the context numbered below this come before it, as they do for its wave (R126, R130) -/
  fence : Nat
  /-- its places are to be translated again before it goes on (R349, R434) -/
  stale : Bool
deriving DecidableEq, Repr, Inhabited

/-- Tag states (Table 11.1). -/
inductive TagState where
  | busy | set | fault
deriving DecidableEq, Repr, Inhabited

/-- A copy tag that is not FREE (R320 to R322); `team` none: held by the dispatcher for a queue's COPY packet. -/
structure Tag where
  die : Nat
  core : Nat
  tag : Nat
  state : TagState
  team : Option Nat
  queue : Option Nat
  fault : Option HeldFault
  copy : Option Copy
deriving DecidableEq, Repr, Inhabited

/-! ### Die-level engines -/

/-- A fault posted to a host fault queue (R422, R423): its ring index once taken, the wave and entry held. -/
structure Posted where
  die : Nat
  ctx : Nat
  uid : Nat
  entry : Nat
  idx : Option Nat
  /-- the entry has been written (R423 step 3) -/
  written : Bool
  trap : Trap
  /-- an uncorrectable-error event, which pauses the context (R422) -/
  err : Bool
deriving DecidableEq, Repr, Inhabited

/-- What one path's pieces add to a cell's accumulators (R458): item, column, row, AREA and COVER. -/
structure Cell where
  item : Nat
  c : Int
  r : Int
  area : Int
  cover : Int
deriving DecidableEq, Repr, Inhabited

/-- A raster batch (R461 to R468): `id` is its request's, `bytes` its descriptor as read, `statKey` the place of its
statistics block; `phase` is 0 before phase 1, 1 in phase 2, 2 at its end. `tiles` and `quads` are those still to be
taken and written; the last fields are the totals of Table 16.6. -/
structure Batch where
  id : Nat
  uid : Nat
  ctx : Nat
  grid : Nat
  entry : Nat
  core : Nat
  d : Nat
  /-- a handler's split issued it (SUP pages, R408) -/
  sup : Bool
  /-- MODE.STRICT of its issue (R490) -/
  strict : Bool
  desc : W64
  bytes : List Byte
  statKey : Option Nat
  noemit : Bool
  rule : Nat
  kind : Nat
  phase : Nat
  code : Nat
  cause : Nat
  faddr : Nat
  bad : Bool
  flat : Bool
  cells : List Cell
  tiles : List (Int × Int)
  /-- the tile whose quads are being written (R468) -/
  tile : Option (Int × Int)
  quads : List (List (List W32))
  items : Nat
  badItems : Nat
  segs : Nat
  ntiles : Nat
  nquads : Nat
  frags : Nat
  covsum : Nat
deriving DecidableEq, Repr, Inhabited

/-- A die's state: TLB, counters of R496, raster queue, round-robin slot of each sub-core's matrix unit (R358). -/
structure Die where
  id : Nat
  tlb : List TlbEntry
  ce : Nat
  ue : Nat
  sdbres : Nat
  qsat : Nat
  winflt : Nat
  raster : List Batch
  rr : List (Nat × Nat)
deriving DecidableEq, Repr, Inhabited

/-! ### Contexts -/

/-- A code version (R437, R438): the object's address and size, MODE.COMPAT bits, superseding version, retirement. -/
structure Version where
  id : Nat
  va : W64
  size : Nat
  compat : Nat
  next : Option Nat
  retired : Bool
  freed : Bool
  native : Bool
  /-- the object's bytes, as the loader, the patch or PUBLISH took them -/
  obj : List Byte
deriving DecidableEq, Repr, Inhabited

/-- Context states (R424). -/
inductive CtxState where
  | running | halting | halted | swapping | inShadow | inSave | restoring
deriving DecidableEq, Repr, Inhabited

/-- Halt reasons (R424). -/
inductive Reason where
  | none | fatal | preempt | host | security | unload
deriving DecidableEq, Repr, Inhabited

/-- A registered context (R414, R424, R482): its descriptor as last loaded, 640 bytes. -/
structure Ctx where
  id : Nat
  descKey : Nat
  desc : List Byte
  state : CtxState
  reason : Reason
  /-- PREEMPT's incoming context (R429) -/
  inc : Option Nat
  /-- engines that have acknowledged the halt, in order (R424, R426) -/
  acks : List Engine
  /-- the trap that raised a FATAL halt: wave, entry, trap -/
  fatal : Option (Nat × Nat × Trap)
  /-- fatal traps met while the context was not running, raised when it runs again (R87, R432) -/
  late : List (Nat × Trap)
  haltAt : Nat
  /-- paused for the host's acknowledgement of an error event (R422) -/
  paused : Bool
  nextGid : Nat
  nextVer : Nat
  vers : List Version
deriving DecidableEq, Repr, Inhabited

/-- A core's image of a context (R429 to R431), in a shadow store or in a save slot. -/
structure Image where
  ctx : Nat
  die : Nat
  core : Nat
  shadow : Bool
  step : Nat
  waves : List Wave
  teams : List Team
  tags : List Tag
  /-- stash allocations written to the save area: team and contents by offset (R430), with the runs
  still undefined -/
  outs : List (Nat × Store Byte × List RawRun)
  /-- sub-cores whose register rows lie in the save area, since the image does not fit the shadow store (R429) -/
  rows : List Nat
deriving DecidableEq, Repr, Inhabited

/-! ### Queues (chapter 13) -/

/-- Queue states (Table 13.5). -/
inductive QState where
  | disabled | idle | fetch | seqwait | depwait | start | hold | aborted | error
deriving DecidableEq, Repr, Inhabited

/-- A queue slot of BAR 1 (R380, R483): slot 64d + q. -/
structure Queue where
  slot : Nat
  qdesc : W64
  ctx : Option Nat
  ring : W64
  ctrl : W32
  state : QState
  ridx : Nat
  doorbell : Nat
  pkt : List Byte
  /-- latches of the wait list (R383) -/
  latched : List Nat
  abort : Nat
  code : Nat
  /-- what the packet in HOLD waits for: a copy's order or a grid's uid (R381) -/
  holds : Option Nat
deriving DecidableEq, Repr, Inhabited

/-- What an engine's owed write does to a place: bytes put there, the decrement of a signal (R384), or the stamp of an
aborted packet's (R385). -/
inductive OwedOp where
  | put (bytes : List Byte)
  | dec
  | stamp
deriving DecidableEq, Repr, Inhabited

/-- A write that an engine owes to a place which could not be reached yet: a PTE found busy, or bytes that a copy owns
(R127, R405). `key` is its place, where it is already translated. -/
structure Owed where
  /-- the copy whose signal it is, by number, else 0 (R434) -/
  id : Nat
  die : Nat
  ctx : Nat
  va : Nat
  key : Option Nat
  op : OwedOp
deriving DecidableEq, Repr, Inhabited

/-- A fetched block that a sequencer or Porter still holds a copy of (R435). -/
structure FetchCopy where
  ctx : Nat
  die : Nat
  core : Nat
  sub : Nat
  blk : Blk
deriving DecidableEq, Repr, Inhabited

/-! ### The platform (chapter 17) -/

/-- A module that discovery has found behind a link (R492): its unique ID, the switches on the way to it, and the I/O die of it
that the path reaches. -/
structure Route where
  uid : W64
  switches : List W64
  io : Nat
deriving DecidableEq, Repr, Inhabited

/-- A Grensan link (R488, R489). -/
structure Link where
  id : Nat
  up : Bool
  rxSeq : Nat
  txSeq : Nat
  unacked : List (List Byte)
  replays : Nat
  crc : Nat
  linkErr : Nat
  peer : Option W64
  /-- the modules that discovery has found behind it (R492) -/
  routes : List Route
  /-- slots received whose bytes a copy still owns, and those behind them (R127) -/
  held : List (List Byte)
deriving DecidableEq, Repr, Inhabited

/-- A path to a peer as the scope tables count it (R110, R492): PEER index, compute die where it leaves, links and switches,
compute die where it arrives. -/
structure DistPath where
  peer : Nat
  near : Nat
  hops : Nat
  far : Nat
deriving DecidableEq, Repr, Inhabited

/-- An error-log entry (R495). -/
structure LogEntry where
  clock : Nat
  kind : Nat
  die : Nat
  unit : Nat
  ctx : Nat
  addr : Nat
deriving DecidableEq, Repr, Inhabited

/-- DEVSTAT.STATE (Table 17.3). -/
inductive DevState where
  | reset | boot | ready | failed | alarm
deriving DecidableEq, Repr, Inhabited

/-- BAR 0 and the Innkeeper (R480 to R501). -/
structure Platform where
  dev : DevState
  failDie : Nat
  mbGo : Bool
  mbStatus : Nat
  mbCmd : Nat
  mbbuf : Store Byte
  /-- WIN and the MSI-X table by BAR 0 offset; a vector's mask bit is kept inverted, since it is 1 at reset (assumption 44) -/
  bar0 : Store Byte
  pba : List Nat
  /-- MSI-X messages sent, the last one first: address and data (the model's own record of what has left the module) -/
  msgs : List (Nat × Nat)
  /-- vectors whose message waits for writes that happen before it (R487) -/
  due : List Nat
  /-- while the module is brought up, what the self-tests have found: FAILDIE of a failure (R500, Table 17.7) -/
  bring : Option (Option Nat)
  /-- CDESC of each context entry -/
  cdesc : Store W64
  peer : Store W64
  /-- the fabric IDs that the Innkeeper has given, by unique ID (R492) -/
  fabric : List (W64 × Nat)
  /-- flits that have left the module, the last one first: link and flit (the model's own record) -/
  flits : List (Nat × List Byte)
  /-- staging buffers posted to the host, by PUBLISH request, that wait for its verdict (R20, R436) -/
  posts : List (Nat × List Byte)
  /-- Table 17.1: BAR 2's size in GiB, set in firmware configuration, and the I/O dies whose optional link is fitted -/
  bar2 : Nat
  fitted : List Nat
  /-- the paths that the DIST tables were last computed from; none: not yet computed -/
  dist : Option (List DistPath)
  links : List Link
  /-- (source, TAG) of requests a home has performed and not yet acknowledged, with the reply's flit (R489) -/
  seen : List (Nat × Nat × List Byte)
  log : List LogEntry
  logNext : Nat
  /-- lines whose corrected errors have been logged, with the clock of the last entry (R495) -/
  corrected : List (Nat × Nat)
  powercap : Nat
  /-- operating point of each island, in steps below nominal (R494) -/
  islands : Store Nat
  readings : Readings
  powered : Bool
  /-- the bytes the last host read through BAR 2 returned (R486) -/
  readData : List Byte
  /-- firmware: running slot, boot pointer, valid slots, byte o of slot n's image at key 2^40 n + o, minimum SVN (R497) -/
  fwRun : Nat
  fwBoot : Nat
  fwValid : List Nat
  fwImage : Store Byte
  minSvn : Nat
  /-- identity key: leaves left, erased, provisioning fuse ERASE (R498, R499) -/
  leaf : Nat
  keyErased : Bool
  eraseFuse : Bool
  alarm : Bool
deriving DecidableEq, Repr, Inhabited

/-! ### The machine -/

/-- What moves next. -/
inductive Action where
  /-- issue from a split-table entry of a sub-core (R162) -/
  | issue (die core sub entry : Nat)
  /-- issue from a wave's access thread (R297) -/
  | porter (uid : Nat)
  /-- an engine's event -/
  | event (i : Instr)
  /-- step 3 of Table 5.9: what issues in the cycle is chosen, after `tries` more rounds of block fetches -/
  | choose (tries : Nat)
  /-- step 4 of Table 5.9: groups complete by arrival -/
  | complete
  /-- engines' owed writes and the links' waiting requests are tried again -/
  | retry
  /-- the host writes bytes of its own memory (R134) -/
  | hostWrite (addr : Nat) (bytes : List Byte)
  /-- the host unloads a code version (R438) -/
  | unload (ctx ver : Nat)
  /-- a VERSION_LOAD whose reads wait is tried again -/
  | reload (ctx : Nat) (va : W64) (patches : Option Nat)
  /-- bring-up ends (Table 17.7) -/
  | boot
  /-- a split that does not issue asks for the walks it needs; its probe stage holds what it has translated (R409) -/
  | probe (uid entry : Nat)
  /-- the host's verdict on a PUBLISH (R20, R436) -/
  | verdict (id : Nat) (accept : Bool)
deriving DecidableEq, Repr, Inhabited

/-- The module. -/
structure State where
  /-- the wave in focus, with its split in focus `wave.cur`; not a wave when `wave.live` is false -/
  wave : Wave
  /-- every other wave -/
  bg : List Wave
  /-- the instruction is executed by the wave's access thread (R296) -/
  acc : Bool
  /-- what moves next, in order (assumption 6) -/
  agenda : List Action
  /-- what comes from outside the module, delivered in order (assumption 7) -/
  inputs : List Action
  mem : Memory
  /-- places whose contents are undefined: a team's stash at launch (R275) -/
  raw : List RawRun
  pend : List Pending
  nextId : Nat
  teams : List Team
  grids : List Grid
  bins : List Bin
  tags : List Tag
  dies : List Die
  ctxs : List Ctx
  images : List Image
  queues : List Queue
  /-- writes that engines owe, oldest first -/
  owed : List Owed
  posted : List Posted
  copies : List FetchCopy
  plat : Platform
  /-- sub-core cycles and fabric cycles since reset (R5, R48 CLOCK) -/
  cycle : Nat
  clock : Nat
  /-- the model's own counter of undefined values and choices drawn (assumption 1) -/
  freeCtr : Nat
deriving DecidableEq, Repr, Inhabited

/-- Reasons the machine stops with a fault. -/
inductive Fault where
  /-- an instruction of a split, executed when no wave is in focus: raised by no step of the model. Safe. -/
  | noWave
deriving DecidableEq, Repr, Inhabited

/-- Reasons an instruction has no meaning here. -/
inductive Refusal where
  /-- the model gives the instruction no meaning yet. Safe. -/
  | notModelled (mnemonic : String)
deriving DecidableEq, Repr, Inhabited

/-- A free split-table entry's image: every field zero (Table 5.2). -/
def Split.empty : Split :=
  { idx := 0, mask := 0, pc := 0, state := .ready, skip := false, cur := false, stop := false, h := false, born := 0,
    rj := [], lf := 0, deadline := 0, tseq := 0, trap := none, work := .none, handler := none, blk := none, sleep := 0,
    waitmem := none, bar := none, clockHi := none, nextIssue := 0, hazards := [], readyCount := 0, missCount := 0,
    fused := false, posted := none, sync := none, held := [], inval := [] }

/-- MODE's reset value (Table 2.10): RJTO 0x010 and MSPLIT 1. -/
def modeReset : W32 := 0x01000010#32

/-- No wave. -/
def Wave.noWave : Wave :=
  { live := false, uid := 0, ctx := 0, die := 0, core := 0, sub := 0, slot := 0, team := 0, grid := 0, waveId := 0,
    width := 64, regs := 0, qbase := 0, rbase := 0, ver := 0, mode := modeReset, v := [], s := [], k := [], h := [],
    vEmpty := [], sEmpty := [], undef := [], exited := 0, seq := 0, tCause := 0, tPc := 0, tPc2 := 0, tWord0 := 0, tWord1 := 0,
    tMask := 0, tAddr := 0, cur := Split.empty, others := [], defs := [], psync := 0, released := 0, syncIds := [],
    thread := Option.none, streams := [], queues := [], tiles := [], mstreams := [], mcmds := [], mNan := false,
    mMism := false, parked := Option.none, fence := 0, marks := [], modeNext := Option.none }

/-- The platform before power good. -/
def Platform.off : Platform :=
  { dev := .reset, failDie := 0, mbGo := false, mbStatus := 0, mbCmd := 0, mbbuf := [], bar0 := [], pba := [], msgs := [], due := [],
    bring := Option.none, cdesc := [], peer := [], fabric := [], flits := [], posts := [],
    bar2 := 64, fitted := [1, 2, 3], dist := Option.none,
    links := [], seen := [], log := [], logNext := 0, corrected := [], powercap := 21000, islands := [],
    readings := { temps := [], currents := [], inlet := 0, outlet := 0, flow := 0, volts := 0, amps := 0, draw := 0 },
    powered := false, readData := [], fwRun := 0, fwBoot := 0, fwValid := [0, 1], fwImage := [], minSvn := 0, leaf := 1048576,
    keyErased := false, eraseFuse := false, alarm := false }

/-- The module at reset, before power good starts bring-up (R501): DEVSTAT RESET, no context, no wave, memory empty. -/
def State.reset : State :=
  { wave := Wave.noWave, bg := [], acc := false, agenda := [], inputs := [], mem := [], raw := [], pend := [], nextId := 1, teams := [],
    grids := [], bins := [], tags := [], dies := [], ctxs := [], images := [], queues := [], owed := [], posted := [], copies := [],
    plat := Platform.off, cycle := 0, clock := 0, freeCtr := 0 }

end Sys2Proof.Machine
end

