-- ==== Sys2Proof/Machine/Wave.lean ====
section
/-! DEFINITION. Waves, splits and access threads: which one is in focus, its registers, its block and the instruction at
its address (R24, R37 to R42, R53, R138 to R142, R291, R296). -/
namespace Sys2Proof.Machine
open Sys2Proof

/-- What an instruction's meaning and a step answer. -/
abbrev Out := Host.Outcome State Fault Refusal

/-! ### Focus -/

/-- Is the wave on an L-core (Table 2.9: cores 16 to 19)? -/
def Wave.isL (w : Wave) : Bool := 16 ≤ w.core
/-- The wave's lanes, exited ones included. -/
def Wave.all (w : Wave) : Mask := Mask.low w.width
/-- The lanes that have not exited. -/
def Wave.liveLanes (w : Wave) : Mask := w.all &&& ~~~w.exited

/-- The wave in focus becomes the one named; without it nothing changes. -/
def focusWave (uid : Nat) (s : State) : State :=
  if s.wave.live && s.wave.uid == uid then s
  else match s.bg.find? fun w => w.uid == uid with
    | some w =>
      let rest := s.bg.filter fun x => x.uid != uid
      { s with wave := w, bg := if s.wave.live then s.wave :: rest else rest }
    | none => s
/-- Is the named wave resident? -/
def hasWave (uid : Nat) (s : State) : Bool :=
  (s.wave.live && s.wave.uid == uid) || s.bg.any fun w => w.uid == uid
/-- Every resident wave. -/
def allWaves (s : State) : List Wave := if s.wave.live then s.wave :: s.bg else s.bg
/-- A resident wave by its uid. -/
def findWave (uid : Nat) (s : State) : Option Wave := (allWaves s).find? fun w => w.uid == uid
/-- Applies a change to every resident wave. -/
def mapWaves (f : Wave → Wave) (s : State) : State := { s with wave := f s.wave, bg := s.bg.map f }
/-- Applies a change to the named wave. -/
def onWave (uid : Nat) (f : Wave → Wave) (s : State) : State := mapWaves (fun w => if w.live && w.uid == uid then f w else w) s

/-- Removes waves from the cores. -/
def removeWaves (p : Wave → Bool) (s : State) : State :=
  let rest := s.bg.filter fun w => !p w
  if s.wave.live && p s.wave then
    (match rest with
      | [] => { s with wave := Wave.noWave, bg := [] }
      | w :: t => { s with wave := w, bg := t })
  else { s with bg := rest }

/-- A wave's valid split-table entries (R141); an entry without running lanes is free. -/
def Wave.splits (w : Wave) : List Split := (w.cur :: w.others).filter fun x => x.mask != 0#64
/-- Applies a change to every entry of the wave. -/
def Wave.mapSplits (f : Split → Split) (w : Wave) : Wave := { w with cur := f w.cur, others := w.others.map f }
/-- Rebuilds a wave from a list of entries, the one with index `e` in focus when it is among them. -/
def Wave.withSplits (w : Wave) (e : Nat) (l : List Split) : Wave :=
  let l := l.filter fun x => x.mask != 0#64
  match l.find? fun x => x.idx == e with
  | some x => { w with cur := x, others := l.filter fun y => y.idx != e }
  | none => match l with
    | x :: t => { w with cur := x, others := t }
    | [] => { w with cur := Split.empty, others := [] }
/-- The split in focus becomes the entry named. -/
def Wave.focus (w : Wave) (e : Nat) : Wave :=
  if w.cur.idx == e && w.cur.mask != 0#64 then w
  else match w.others.find? fun x => x.idx == e with
    | some x =>
      let rest := w.others.filter fun y => y.idx != e
      { w with cur := x, others := if w.cur.mask == 0#64 then rest else w.cur :: rest }
    | none => w
/-- Has the wave the entry? -/
def Wave.hasEntry (w : Wave) (e : Nat) : Bool := w.splits.any fun x => x.idx == e
/-- Focus on a wave's entry. -/
def focusSplit (uid e : Nat) (s : State) : State :=
  let s := focusWave uid s
  { s with wave := s.wave.focus e }

/-- Changes the split in focus. -/
def onCur (f : Split → Split) (s : State) : State := { s with wave := { s.wave with cur := f s.wave.cur } }
/-- Changes the wave in focus. -/
def onFocus (f : Wave → Wave) (s : State) : State := { s with wave := f s.wave }

/-- Is a wave resident on the given sub-core? -/
def Wave.onSub (die core sub : Nat) (w : Wave) : Bool := w.live && w.die == die && w.core == core && w.sub == sub
/-- The waves of the focus wave's sub-core. -/
def subWaves (s : State) : List Wave := (allWaves s).filter (Wave.onSub s.wave.die s.wave.core s.wave.sub)
/-- The lowest free index of the sub-core's split table (R141): 32 entries, 8 on an L sub-core (Table 15.1). -/
def freeEntry (s : State) : Option Nat :=
  let used := (subWaves s).flatMap fun w => w.splits.map (·.idx)
  (List.range (if s.wave.isL then 8 else 32)).find? fun i => !used.contains i
/-- AGE of an entry: its rank by creation among the sub-core's valid entries (R142). -/
def ageOf (s : State) (die core sub : Nat) (sp : Split) : Nat :=
  (((allWaves s).filter (Wave.onSub die core sub)).flatMap fun w => w.splits.filter fun x => x.born < sp.born).length

/-! ### The access thread in focus (R296) -/

/-- Changes the access thread of the wave in focus. -/
def onThread (f : Thread → Thread) (s : State) : State :=
  { s with wave := { s.wave with thread := s.wave.thread.map f } }

/-- The address of the instruction being executed: the split's, or the access thread's. -/
def pcOf (s : State) : PC := if s.acc then (s.wave.thread.map (·.pc)).getD 0 else s.wave.cur.pc
/-- The block being executed. -/
def blkOf (s : State) : Option Blk := if s.acc then s.wave.thread.bind (·.blk) else s.wave.cur.blk
/-- MASK of the executing split; an access thread has no lanes. -/
def maskOf (s : State) : Mask := if s.acc then 0 else s.wave.cur.mask

/-! ### Blocks (R24 to R29, R55) -/

/-- Words or units of a header. -/
def hdrLen (isL : Bool) : Nat := if isL then 2 else 1
/-- The address after the block: the next header's (R24). -/
def Blk.endPc (isL : Bool) (b : Blk) : PC := b.hdr + BitVec.ofNat 49 (hdrLen isL + b.len)
/-- The address of the block's first instruction. -/
def Blk.first (isL : Bool) (b : Blk) : PC := b.hdr + BitVec.ofNat 49 (hdrLen isL)
/-- Does an instruction of the block stand at the address? -/
def Blk.has (isL : Bool) (b : Blk) (pc : PC) : Bool :=
  decide ((b.first isL).toNat ≤ pc.toNat) && decide (pc.toNat < (b.first isL).toNat + b.len)

/-- The instruction at an address of a block, with its D-form words and its length in words or units. -/
def Blk.at (isL : Bool) (b : Blk) (pc : PC) : Decoded × W64 × W64 × Nat :=
  let ws := b.words.drop (pc - b.first isL).toNat
  if isL then decodeUnits (ws.map fun w => w.extractLsb' 0 32) else decodeDWords ws

/-- The instruction at a split's address. -/
def Split.instr (isL : Bool) (sp : Split) : Option Instr :=
  sp.blk.bind fun b => (b.at isL sp.pc).1.instr?

/-- The length of an instruction in words, or in units on an L-core (R24, R56, R57). -/
def instrLen (isL : Bool) (i : Instr) : Nat :=
  if isL then (encodeUnits i).length else (encode (expand i)).length

/-- The canonical byte address of an instruction address (R24, R55, R102). -/
def pcBytes (isL : Bool) (pc : PC) : Nat := if isL then 4 * pc.toNat else wrapN (sextN (8 * pc.toNat) 52) 64

/-- A split moved to an address: its block stays while an instruction of it stands there. -/
def Split.goto (isL : Bool) (pc : PC) (sp : Split) : Split :=
  { sp with pc := pc, blk := sp.blk.filter fun b => b.has isL pc }

/-- The split after its outstanding fixed-latency results have been written: its next issue comes no earlier (R54). -/
def Split.settled (sp : Split) : Split :=
  { sp with nextIssue := sp.hazards.foldl (fun t h => max t h.ready) sp.nextIssue, hazards := [] }
/-- Has every fixed-latency result of the split been written by a cycle (R54)? -/
def Split.written (cycle : Nat) (sp : Split) : Bool := sp.hazards.all fun h => h.ready ≤ cycle

/-! ### Registers -/

/-- Lanes whose v-register reads as an undefined value: a dead or unwritten register, or a fixed-latency result read too
early in native mode (R51, Table 2.1). -/
def undefLanes (s : State) (n : Nat) : Mask :=
  (s.wave.cur.hazards.filter fun h => h.reg == n && s.cycle < h.ready).foldl (fun m h => m ||| h.lanes)
    (Store.get 0 s.wave.undef n)

/-- v-register `n` of lane `l`, as an instruction of the split in focus reads it. -/
def rdV (s : State) (n l : Nat) : W32 :=
  if Mask.has (undefLanes s n) l then Config.undefWord s.freeCtr l n else Store.get 0 s.wave.v (64 * n + l)

/-- s-register `n` of the wave or of the access thread. -/
def rdS (s : State) (n : Nat) : W32 :=
  if s.acc then Store.get 0 ((s.wave.thread.map (·.regs)).getD []) n else Store.get 0 s.wave.s n

/-- An s-pair as a 64-bit value (R41, R70). -/
def rdS64 (s : State) (n : Nat) : W64 := pair64 (rdS s n) (rdS s (n + 1))
/-- A v-pair of a lane. -/
def rdV64 (s : State) (n l : Nat) : W64 := pair64 (rdV s n l) (rdV s (n + 1) l)

/-- Mask register `n`: k0 reads the split's MASK (R198, Table 2.2). -/
def rdK (s : State) (n : Nat) : Mask := if n == 0 then maskOf s else Store.get 0 s.wave.k n

/-- Word `w` of handle `h`. -/
def rdH (s : State) (h w : Nat) : W32 := Store.get 0 s.wave.h (8 * h + w)

/-- Writes a lane of a v-register of a wave. -/
def Wave.setV (w : Wave) (n l : Nat) (x : W32) : Wave :=
  { w with v := Store.set 0 w.v (64 * n + l) x,
           undef := if w.undef.isEmpty then w.undef
                    else Store.set 0 w.undef n (Store.get 0 w.undef n &&& ~~~Mask.one l) }
/-- Writes the lanes of a v-register. -/
def Wave.setVs (w : Wave) (n : Nat) : List (Nat × W32) → Wave
  | [] => w
  | (l, x) :: t => Wave.setVs (w.setV n l x) n t

/-- Writes an s-register. -/
def wrS (s : State) (n : Nat) (x : W32) : State :=
  if s.acc then onThread (fun t => { t with regs := Store.set 0 t.regs n x }) s
  else { s with wave := { s.wave with s := Store.set 0 s.wave.s n x } }
/-- Writes an s-pair. -/
def wrS64 (s : State) (n : Nat) (x : W64) : State := wrS (wrS s n (lo32 x)) (n + 1) (hi32 x)
/-- Writes a mask register; a write to k0 is discarded (R40). -/
def wrK (s : State) (n : Nat) (m : Mask) : State :=
  if n == 0 then s else { s with wave := { s.wave with k := Store.set 0 s.wave.k n m } }
/-- Writes a handle word. -/
def wrH (s : State) (h w : Nat) (x : W32) : State :=
  { s with wave := { s.wave with h := Store.set 0 s.wave.h (8 * h + w) x } }

/-! ### Full and empty (R53, R260) -/

/-- Marks a v-register empty in the quads of a mask. -/
def Wave.markEmpty (w : Wave) (n : Nat) (lanes : Mask) : Wave :=
  let keys := ((List.range 16).filter fun q => (Mask.quads lanes).getLsbD (4 * q)).map fun q => 16 * n + q
  { w with vEmpty := keys ++ w.vEmpty.filter fun x => !keys.contains x }
/-- Marks a quad of a v-register full. -/
def Wave.markFull (w : Wave) (n q : Nat) : Wave := { w with vEmpty := w.vEmpty.filter fun x => x != 16 * n + q }

/-- Is the register empty in the quad? Mask registers are never empty. -/
def emptyIn (s : State) (q : Nat) : Reg → Bool
  | .v n => s.wave.vEmpty.contains (16 * n + q)
  | .s n => if s.acc then ((s.wave.thread.map (·.empty)).getD []).contains n else s.wave.sEmpty.contains n
  | .k _ => false

/-- The quads that hold a lane of the mask. -/
def quadsOf (m : Mask) : List Nat := (List.range 16).filter fun q => (Mask.quads m).getLsbD (4 * q)

/-- Is the register empty in any quad of the split? -/
def emptyAny (s : State) (r : Reg) : Bool :=
  match r with
  | .v _ => (quadsOf s.wave.cur.mask).any fun q => emptyIn s q r
  | _ => emptyIn s 0 r

/-- The lanes of the quads that hold the register empty; every lane of the split for an s-register. -/
def emptyLanes (s : State) (r : Reg) : Mask :=
  match r with
  | .v _ => Mask.ofLanes (((quadsOf s.wave.cur.mask).filter fun q => emptyIn s q r).flatMap fun q =>
      (List.range 4).map fun j => 4 * q + j)
  | _ => if emptyIn s 0 r then s.wave.cur.mask else 0

/-! ### The context descriptor (Table 14.8) -/

/-- A context's entry. -/
def findCtx (s : State) (c : Nat) : Option Ctx := s.ctxs.find? fun x => x.id == c
/-- Changes a context's entry. -/
def onCtx (c : Nat) (f : Ctx → Ctx) (s : State) : State :=
  { s with ctxs := s.ctxs.map fun x => if x.id == c then f x else x }
/-- `n` bytes at an offset of a byte list, as a number. -/
def bytesAt (l : List Byte) (off n : Nat) : Nat := natOfBytes ((l.drop off).take n)
/-- A field of a context's loaded descriptor. -/
def descN (s : State) (c off n : Nat) : Nat :=
  match findCtx s c with
  | some x => bytesAt x.desc off n
  | none => 0
/-- A bit of ASSIST (Table 1.3). -/
def assist (s : State) (c b : Nat) : Bool := bitAt (descN s c 0x008 4) b
/-- A bit of CFLAGS. -/
def cflag (s : State) (c b : Nat) : Bool := bitAt (descN s c 0x004 4) b
/-- Does the context run: no halt line raised, no pause (R180, R422)? -/
def ctxRuns (s : State) (c : Nat) : Bool :=
  match findCtx s c with
  | some x => x.state == .running && !x.paused
  | none => false

/-- The code version whose object holds a byte address. -/
def versionAt (s : State) (c a : Nat) : Option Version :=
  (findCtx s c).bind fun x => x.vers.find? fun v => v.va.toNat % 2 ^ 52 ≤ a % 2 ^ 52 && a % 2 ^ 52 < v.va.toNat % 2 ^ 52 + v.size
/-- Does the split in focus run in native mode (R50)? Its code object decides; outside any object, MODE.NATIVE (R49). -/
def runsNative (s : State) : Bool :=
  !s.wave.isL && match versionAt s s.wave.ctx (8 * s.wave.cur.pc.toNat) with
    | some v => v.native
    | none => s.wave.mode.getLsbD 5

/-- A team. -/
def findTeam (s : State) (t : Nat) : Option Team := s.teams.find? fun x => x.id == t
/-- Changes a team. -/
def onTeam (t : Nat) (f : Team → Team) (s : State) : State :=
  { s with teams := s.teams.map fun x => if x.id == t then f x else x }
/-- A die's state; a die that nothing has touched is at its reset values. -/
def findDie (s : State) (d : Nat) : Die :=
  (s.dies.find? fun x => x.id == d).getD
    { id := d, tlb := [], ce := 0, ue := 0, sdbres := 0, qsat := 0, winflt := 0, raster := [], rr := [] }
/-- Changes a die's state. -/
def onDie (d : Nat) (f : Die → Die) (s : State) : State :=
  if s.dies.any fun x => x.id == d then { s with dies := s.dies.map fun x => if x.id == d then f x else x }
  else { s with dies := f (findDie s d) :: s.dies }

/-- A choice the manual leaves open. -/
def choose (s : State) (kind n : Nat) : Nat := if n ≤ 1 then 0 else Config.choice kind s.freeCtr % n

end Sys2Proof.Machine
end

