-- ==== Sys2Proof/Machine/Mem.lean ====
section
/-! DEFINITION. Physical places, coherent reads and writes of memory with the mapped stash (R106, R107, R279), and
translation: page tables, window region, stripe sets, TLB, permission, kind, bound and watch checks (R401 to R416,
R276, R278). -/
namespace Sys2Proof.Machine
open Sys2Proof

/-! ### Places (Table 4.1) -/

/-- A byte of a die's GDDR7; see `placeHeld` for what lies beyond it. -/
def dramKey (die pa : Nat) : Nat := die * 2 ^ 44 + pa % 2 ^ 44
/-- A byte of a core's stash. -/
def stashKey (die core off : Nat) : Nat := 2 ^ 56 + (die * 32 + core) * 2 ^ 24 + off % 2 ^ 24
/-- A byte of host memory. -/
def hostKey (a : Nat) : Nat := 2 ^ 70 + a % 2 ^ 64
/-- A byte of the memory of the peer module with a fabric ID (R491). -/
def peerKey (m die pa : Nat) : Nat := 2 ^ 80 + (m * 64 + die) * 2 ^ 44 + pa % 2 ^ 44
/-- A byte of a register page. -/
def mmioKey (die pa : Nat) : Nat := 2 ^ 90 + die * 2 ^ 44 + pa % 2 ^ 44
/-- The target code of a place (Table 4.1); LOCAL and STRIPE places of this module are 0. -/
def tgtOfKey (k : Nat) : Nat :=
  if k < 2 ^ 56 then 0 else if k < 2 ^ 70 then 2 else if k < 2 ^ 80 then 3 else if k < 2 ^ 90 then 4 else 5

/-- Is a place within what Table 1.1 gives the module: a die's 16 GiB, a D-core's 3 MiB or an L-core's 1 MiB of stash, on
dies 0 to 63 and cores 0 to 19? Of an access beyond it the manual says nothing: in the model it drops writes and reads
undefined bytes (assumption 37). -/
def placeHeld (k : Nat) : Bool :=
  match tgtOfKey k with
  | 0 => k < 2 ^ 50 && k % 2 ^ 44 < 2 ^ 34
  | 2 =>
    let core := (k - 2 ^ 56) / 2 ^ 24 % 32
    core < 20 && k % 2 ^ 24 < (if core < 16 then 3 else 1) * 2 ^ 20
  | 4 => (k - 2 ^ 80) % 2 ^ 44 < 2 ^ 34
  | _ => true
/-- The parts of a run outside `n` places from `lo` on. -/
def RawRun.cut (lo n : Nat) (r : RawRun) : List RawRun :=
  (if r.lo < lo then [{ r with len := min r.len (lo - r.lo) }] else []) ++
  (if lo + n < r.lo + r.len then
    let a := max r.lo (lo + n)
    [{ r with lo := a, len := r.lo + r.len - a, src := r.src + (a - r.lo) }] else [])
/-- The undefined byte of a place, if nothing has written it since its contents became undefined (R275). -/
def rawByte (rs : List RawRun) (k : Nat) : Option Byte :=
  (rs.find? fun r => r.lo ≤ k && k < r.lo + r.len).map fun r =>
    (Config.undefWord r.draw 16 (r.src + (k - r.lo))).extractLsb' 0 8
/-- Bytes put into a place, where it holds any. -/
def memPut (s : State) (key : Nat) (bs : List Byte) : State :=
  if placeHeld key then { s with mem := s.mem.writeN key bs, raw := s.raw.flatMap (RawRun.cut key bs.length) } else s
/-- Memory without the bytes of a range. -/
def Memory.without (m : Memory) (lo n : Nat) : Memory := m.filter fun x => !(lo ≤ x.1 && x.1 < lo + n)
/-- A range of places becomes zero. -/
def memZero (s : State) (lo n : Nat) : State :=
  { s with mem := s.mem.without lo n, raw := s.raw.flatMap (RawRun.cut lo n) }
/-- The contents of a range of places become undefined (R275). -/
def memUndef (s : State) (lo n : Nat) : State :=
  { s with mem := s.mem.without lo n,
           raw := { lo := lo, len := n, draw := s.freeCtr, src := lo } :: s.raw.flatMap (RawRun.cut lo n) }
/-- The contents of a range, by offset: its bytes and its runs still undefined. -/
def memTake (s : State) (lo n : Nat) : Store Byte × List RawRun :=
  (s.mem.filterMap fun c => if lo ≤ c.1 && c.1 < lo + n then some (c.1 - lo, c.2) else none,
   s.raw.filterMap fun r => if lo ≤ r.lo && r.lo < lo + n then some { r with lo := r.lo - lo } else none)
/-- Contents taken from a range are put into another of the same length. -/
def memGive (s : State) (lo n : Nat) (c : Store Byte × List RawRun) : State :=
  let s := memZero s lo n
  { s with mem := c.1.foldl (fun m x => Memory.write m (lo + x.1) x.2) s.mem,
           raw := (c.2.map fun r => { r with lo := lo + r.lo }) ++ s.raw }

/-! ### Mapped stash lines (R107, R279) -/

/-- The dirty line that holds a place, with its team. -/
def findDirty (s : State) (line : Nat) : Option (Nat × DirtyLine) :=
  s.teams.findSome? fun t => (t.dirty.find? fun d => d.key == line).map fun d => (t.id, d)

/-- Writes a team's dirty line back to its home and leaves it clean (R279). -/
def writeBackLine (team : Nat) (d : DirtyLine) (s : State) : State :=
  onTeam team (fun t => { t with dirty := t.dirty.filter fun x => x.key != d.key }) (memPut s d.key d.bytes)

/-- The recall of a line by the directory (R107): whoever holds it dirty writes it back. -/
def recallLine (line : Nat) (s : State) : State :=
  match findDirty s line with
  | some (t, d) => writeBackLine t d s
  | none => s

/-- The 64-byte lines that `n` bytes from `key` on touch. -/
def linesOf (key n : Nat) : List Nat :=
  if n == 0 then [] else (List.range ((key + n - 1) / 64 - key / 64 + 1)).map fun i => 64 * (key / 64 + i)
/-- Recalls every line of a run of bytes. -/
def recallBytes (key n : Nat) (s : State) : State :=
  if s.teams.all fun t => t.dirty.isEmpty then s else (linesOf key n).foldl (fun s l => recallLine l s) s

/-- The map slot of a team whose range holds an address (R277). -/
def slotOf (s : State) (team : Option Nat) (va : Nat) : Option MapSlot :=
  (team.bind (findTeam s)).bind fun t => t.maps.find? fun m => m.g ≤ va % 2 ^ 52 && va % 2 ^ 52 < m.g + m.len

/-- Undefined bytes. -/
def freeBytes (s : State) (tag : Nat) (n : Nat) : List Byte :=
  (List.range n).map fun i => (Config.undefWord s.freeCtr tag i).extractLsb' 0 8

/-- The queue slot and offset of a register page's byte (R484). -/
def mmioQueue (key : Nat) : Option (Nat × Nat) :=
  let pa := (key - 2 ^ 90) % 2 ^ 44
  if 0x100000 ≤ pa && pa < 0x100000 + 64 * 4096 then
    some (64 * ((key - 2 ^ 90) / 2 ^ 44) + (pa - 0x100000) / 4096, pa % 4096)
  else none
/-- A queue slot (R483). -/
def findQueue (s : State) (slot : Nat) : Option Queue := s.queues.find? fun q => q.slot == slot
/-- A byte of a queue slot that device code reads (R484): DOORBELL and RIDXM. -/
def queueByte (s : State) (slot off : Nat) : Byte :=
  match findQueue s slot with
  | some q =>
    if off < 8 then BitVec.ofNat 8 (q.doorbell / 256 ^ off)
    else if 0x20 ≤ off && off < 0x28 then BitVec.ofNat 8 (q.ridx / 256 ^ (off - 0x20)) else 0
  | none => 0
/-- A doorbell write (R375, R483, R484): eight bytes, to an attached slot; a value below the doorbell is ignored. -/
def ringDoorbell (slot off : Nat) (bs : List Byte) (s : State) : State :=
  if off != 0 || bs.length != 8 then s
  else { s with queues := s.queues.map fun q =>
    if q.slot == slot && q.ctx.isSome then { q with doorbell := max q.doorbell (natOfBytes bs) } else q }

/-- Does a link reach the module with a fabric ID (R492)? -/
def Link.reaches (fabric : List (W64 × Nat)) (m : Nat) (l : Link) : Bool :=
  l.routes.any fun r => fabric.contains (r.uid, m)
/-- Does no route to a peer module remain: no link that is up reaches it (R490)? -/
def noRoute (s : State) (m : Nat) : Bool := !(s.plat.links.any fun l => l.up && l.reaches s.plat.fabric m)
/-- The fabric ID of the module that holds a peer place. -/
def peerOf (key : Nat) : Nat := (key - 2 ^ 80) / 2 ^ 44 / 64
/-- Is a place in a peer module that cannot be reached (R490)? -/
def unreachable (s : State) (key : Nat) : Bool := tgtOfKey key == 4 && noRoute s (peerOf key)

/-- The value of `n` bytes of a place, wherever the last write to them stands (R107, R118); a register page answers an
undefined value, since the manual describes no register of it but the queue slots' (R484, assumption 21), and a peer that
cannot be reached zeros (R490); a place that holds nothing answers undefined bytes (assumption 37). -/
def cohRead (s : State) (key n : Nat) : List Byte :=
  if tgtOfKey key == 5 then
    (match mmioQueue key with
      | some (slot, off) => (List.range n).map fun i => queueByte s slot (off + i)
      | none => freeBytes s key n)
  else if unreachable s key then List.replicate n 0
  else if !placeHeld key then freeBytes s key n
  else if s.raw.isEmpty && (s.teams.all fun t => t.dirty.isEmpty) then s.mem.readN key n
  else (List.range n).map fun i =>
    match findDirty s (64 * ((key + i) / 64)) with
    | some (_, d) => d.bytes.getD ((key + i) % 64) 0
    | none => (rawByte s.raw (key + i)).getD (s.mem.read (key + i))
/-- The same, as a number. -/
def cohNat (s : State) (key n : Nat) : Nat := natOfBytes (cohRead s key n)

/-- A write by any agent at a place's home (R106, R107); one to a peer that cannot be reached is dropped (R490). -/
def writeHome (s : State) (key : Nat) (bs : List Byte) : State :=
  if tgtOfKey key == 5 then
    (match mmioQueue key with
      | some (slot, off) => ringDoorbell slot off bs s
      | none => s)
  else if unreachable s key then s
  else memPut (recallBytes key bs.length s) key bs

/-- The destination bytes a copy in flight owns (R127): an access to them waits until the Courier has written them. -/
def copyOwns (s : State) (key n : Nat) : Bool :=
  s.tags.any fun t => match t.copy with
    | some c => c.owned.any fun r => r.1 < key + n && key < r.1 + r.2
    | none => false

/-! ### Page table entries (R401) -/

/-- A PTE's fields. -/
def pteV (w : W64) : Bool := w.getLsbD 63
def pteBusy (w : W64) : Bool := w.getLsbD 62
def pteVpn (w : W64) : Nat := (w.extractLsb' 12 40).toNat
def pteTgt (w : W64) : Nat := (w.extractLsb' 9 3).toNat
def pteFt (w : W64) : Bool := w.getLsbD 8
def pteA (w : W64) : Bool := w.getLsbD 7
def pteD (w : W64) : Bool := w.getLsbD 6
def pteSup (w : W64) : Bool := w.getLsbD 5
def pteEx (w : W64) : Bool := w.getLsbD 4
def pteWr (w : W64) : Bool := w.getLsbD 3
def pteRd (w : W64) : Bool := w.getLsbD 2

/-- Are the reserved fields of word 1 zero (Table 14.2)? -/
def pteW1Ok (tgt : Nat) (w : W64) : Bool :=
  let z (l n : Nat) : Bool := w.toNat / 2 ^ l % 2 ^ n == 0
  match tgt with
  | 0 => z 44 14 && z 0 12
  | 1 => z 17 15
  | 2 => z 53 5 && z 22 26 && z 0 12
  | 3 => z 0 12
  | 4 => z 54 2 && z 44 4 && z 0 12
  | 5 => z 44 14 && z 0 12
  | _ => false

/-- A bad entry (R401): a reserved target, a nonzero reserved field, or a STASH entry of a table of large pages. -/
def pteBad (w0 w1 : W64) (sz : Nat) : Bool :=
  pteTgt w0 ≥ 6 || w0.extractLsb' 52 10 != 0#10 || w0.extractLsb' 0 2 != 0#2 ||
  (pteTgt w0 == 2 && sz ≥ 9) || (!pteFt w0 && !pteW1Ok (pteTgt w0) w1)

/-! ### Hash tables (R403 to R405) -/

/-- The page sizes of the four tables, as powers of two above 4 KiB. -/
def tableSz (t : Nat) : Nat := match t with | 0 => 0 | 1 => 4 | 2 => 9 | _ => 18

/-- A bad geometry or configuration word. -/
def geomBad (g : Nat) : Bool :=
  bitsOf g 55 50 < 4 || bitsOf g 55 50 > 24 || bitsOf g 63 56 != 0 || bitsOf g 11 0 != 0

/-- The place of a bucket (R404). -/
def bucketKey (geom seed va sz way : Nat) : Nat :=
  let vpn := bitsOf va 51 (12 + sz)
  let x := (vpn + seed * (2 * way + 1)) % 2 ^ 64
  let x := x ^^^ (x / 2 ^ 29)
  let x := x * 0xBF58476D1CE4E5B9 % 2 ^ 64
  let x := x ^^^ (x / 2 ^ 32)
  let l := bitsOf geom 55 50
  dramKey (bitsOf geom 49 44) (bitsOf geom 43 12 * 4096 + 64 * (way * 2 ^ l + x % 2 ^ l))

/-- What a walk finds. -/
inductive Found where
  | pte (w0 w1 : W64) (sz at_ : Nat)
  | missing
  | busy
  | fault (cause sub addr : Nat)
deriving DecidableEq, Repr, Inhabited

/-- The buckets that a walk of an address reads in one table, in the order of R405: their places. -/
def bucketsOf (desc : List Byte) (va t : Nat) : List Nat :=
  let b := 0x10 + 32 * t
  let cfg := bytesAt desc (b + 8) 8
  if !bitAt cfg 32 then []
  else
    let place (off seed way : Nat) : Nat := bucketKey (bytesAt desc (b + off) 8) seed va (tableSz t) way
    let seed := bitsOf cfg 31 0
    let oseed := bitsOf (bytesAt desc (b + 24) 8) 31 0
    [place 0 seed 0, place 0 seed 1] ++ if bitAt cfg 33 then [place 16 oseed 0, place 16 oseed 1] else []
/-- The matching entries of one table, in the order of R405. -/
def tableMatches (s : State) (desc : List Byte) (va t : Nat) : List (W64 × W64 × Nat × Nat) :=
  let sz := tableSz t
  let want := bitsOf va 51 12 / 2 ^ sz * 2 ^ sz
  (bucketsOf desc va t).flatMap fun b => (List.range 4).filterMap fun j =>
    let k := b + 16 * j
    let w0 := BitVec.ofNat 64 (cohNat s k 8)
    if pteV w0 && pteVpn w0 == want then some (w0, BitVec.ofNat 64 (cohNat s (k + 8) 8), sz, k) else none

/-- Is a table descriptor bad (R403)? -/
def tableBad (desc : List Byte) (t : Nat) : Bool :=
  let b := 0x10 + 32 * t
  let cfg := bytesAt desc (b + 8) 8
  bitAt cfg 32 &&
    (geomBad (bytesAt desc b 8) || bitsOf cfg 63 34 != 0 ||
     (bitAt cfg 33 && (geomBad (bytesAt desc (b + 16) 8) || bitsOf (bytesAt desc (b + 24) 8) 63 32 != 0)))

/-- A probe of the hash tables (R405); a bucket that a copy owns is waited for as a busy entry is (R127). -/
def probeTables (s : State) (desc : List Byte) (va : Nat) : Found :=
  if (List.range 4).any (tableBad desc) then .fault 0x0A 3 va
  else if (List.range 4).any fun t => (bucketsOf desc va t).any fun b => copyOwns s b 64 then .busy
  else
    let ms := (List.range 4).flatMap (tableMatches s desc va)
    if ms.any fun m => pteBusy m.1 then .busy
    else match ms with
      | (w0, w1, sz, k) :: _ => .pte w0 w1 sz k
      | [] => .missing

/-! ### Translation (R408 to R411) -/

/-- The answer of a translation: a place; a fault of Table 14.5 with the faulting byte; or a walk still to be made. -/
inductive Xl where
  | ok (key : Nat)
  | fault (cause sub addr : Nat)
  | miss
deriving DecidableEq, Repr, Inhabited

/-- A canonical address (R102). -/
def canonical (va : Nat) : Bool := let t := va % 2 ^ 64 / 2 ^ 51; t == 0 || t == 2 ^ 13 - 1

/-- A field of 52 bits that names a virtual address, in canonical form (R102, assumption 43). -/
def extend52 (a : Nat) : Nat := wrapN (sextN a 52) 64

/-- Is the address in the window region (R276)? -/
def inWindow (desc : List Byte) (a : Nat) : Bool :=
  bytesAt desc 0x0C0 8 ≤ a && a < bytesAt desc 0x0C0 8 + bytesAt desc 0x0C8 8

/-- The address of the window array entry of an address (R276). -/
def windowEa (desc : List Byte) (a : Nat) : Nat := bytesAt desc 0x0D0 8 + 16 * ((a - bytesAt desc 0x0C0 8) / 4096)
/-- The window array entry of an address (R276); `tr` translates the array's own address as a walker read. An entry that a
copy owns is waited for as a busy one is (R127). -/
def windowPte (s : State) (desc : List Byte) (tr : Nat → Xl) (a : Nat) : Found :=
  let i := (a - bytesAt desc 0x0C0 8) / 4096
  let ea := windowEa desc a
  match tr ea with
  | .fault c sub _ => .fault c sub ea
  | .miss => .busy
  | .ok k =>
    let w0 := BitVec.ofNat 64 (cohNat s k 8)
    let w1 := BitVec.ofNat 64 (cohNat s (k + 8) 8)
    if copyOwns s k 16 then .busy
    else if !pteV w0 then .missing
    else if pteBusy w0 then .busy
    else if pteTgt w0 != 2 || pteVpn w0 != bitsOf (bytesAt desc 0x0C0 8 + 4096 * i) 51 12 then .fault 0x0A 3 a
    else .pte w0 w1 0 k

/-- A place in a peer module, whose PEER entry must be valid (R491). -/
def peerPlace (s : State) (p die pa va : Nat) : Xl :=
  let e := Store.get 0 s.plat.peer p
  if e.getLsbD 63 then .ok (peerKey (e.toNat % 256) die pa) else .fault 9 5 va
/-- The address of the stripe set of a STRIPE entry (R402). -/
def stripeSet (desc : List Byte) (w1 : W64) : Nat := bytesAt desc 0x090 8 + 1024 * bitsOf w1.toNat 15 0
/-- The number of a granule of a STRIPE page (R402). -/
def granule (w1 : W64) (off : Nat) : Nat := bitsOf w1.toNat 63 32 + off / (if bitAt w1.toNat 16 then 65536 else 4096)
/-- A word of a stripe set, as the walker reaches it; one that a copy owns is waited for (R127). -/
def stripeWord (s : State) (tr : Nat → Xl) (va : Nat) : Xl :=
  match tr va with
  | .ok k => if copyOwns s k 8 then .miss else .ok k
  | y => y
/-- The number of members of the set whose first word stands at `k` (R402). -/
def stripeCount (s : State) (k : Nat) : Nat := bitsOf (cohNat s k 8) 5 0 + 1
/-- The address of a granule's member word (R402). -/
def stripeMember (desc : List Byte) (w1 : W64) (off n : Nat) : Nat := stripeSet desc w1 + 8 + 8 * (granule w1 off % n)
/-- The place an entry maps an address to (Table 14.2, R402); `tr` translates a stripe set's address as a walker read. -/
def pteKey (s : State) (desc : List Byte) (tr : Nat → Xl) (w0 w1 : W64) (sz va : Nat) : Xl :=
  let off := va % 2 ^ (12 + sz)
  let x := w1.toNat
  match pteTgt w0 with
  | 0 => .ok (dramKey (bitsOf x 63 58) (bitsOf x 43 12 * 4096 + off))
  | 1 =>
    let gs := if bitAt x 16 then 65536 else 4096
    match stripeWord s tr (stripeSet desc w1) with
    | .ok k0 =>
      let n := stripeCount s k0
      match stripeWord s tr (stripeMember desc w1 off n) with
      | .ok k =>
        let m := cohNat s k 8
        let pa := bitsOf m 43 0 + granule w1 off / n * gs + va % gs
        if bitsOf m 63 56 == 0 then .ok (dramKey (bitsOf m 53 48) pa) else peerPlace s (bitsOf m 63 56) (bitsOf m 53 48) pa va
      | y => y
    | y => y
  | 2 => .ok (stashKey (bitsOf x 63 58) (bitsOf x 52 48) (bitsOf x 21 12 * 4096 + off))
  | 3 => .ok (hostKey (bitsOf x 63 12 * 4096 + off))
  | 4 => peerPlace s (bitsOf x 63 56) (bitsOf x 53 48) (bitsOf x 43 12 * 4096 + off) va
  | _ => .ok (mmioKey (bitsOf x 63 58) (bitsOf x 43 12 * 4096 + off))

/-- Is the 4 KiB unit of a stash bound by a map slot (R278)? -/
def unitBound (s : State) (key : Nat) : Bool :=
  tgtOfKey key == 2 && s.teams.any fun t =>
    let b := stashKey t.die t.core t.off
    t.maps.any fun m => b + m.o ≤ key / 4096 * 4096 && key < b + m.o + m.len

/-- Does built-in first-touch service apply to the cause's routing (R415, R420)? -/
def firstRouted (s : State) (desc : List Byte) (c : Nat) : Bool :=
  let e := bytesAt desc (0x100 + 16 * 7) 16
  bitAt e 63 && bitsOf e 48 0 == 0 && bitsOf e 112 64 == 0 && !assist s c 0

/-- The address of the pool descriptor of a die (R420). -/
def poolEa (desc : List Byte) (die : Nat) : Nat := bytesAt desc 0x098 8 + 64 * die
/-- The address of the array entry of the next page of the pool described at `k` (R420). -/
def poolNext (s : State) (k : Nat) : Nat := cohNat s (k + 16) 8 + 8 * (cohNat s k 8 % 2 ^ cohNat s (k + 24) 4)

/-- What an FT entry does (R415, R420): service, with the places of the pool descriptor and of the next page's array entry; an
empty pool; a fault, where the descriptor or the array cannot be reached too; or a wait for an entry being rewritten or bytes
that a copy owns (R127, R405). -/
inductive First where
  | service (pool page : Nat)
  | empty | fault | wait
deriving DecidableEq, Repr, Inhabited
def firstTouch (s : State) (desc : List Byte) (tr : Nat → Xl) (die c : Nat) (w0 : W64) (sz : Nat) : First :=
  if !firstRouted s desc c then .fault
  else match tr (poolEa desc die) with
    | .fault _ _ _ => .fault
    | .miss => .wait
    | .ok k =>
      let gran := if cohNat s (k + 28) 4 == 0 then 0 else 4
      if copyOwns s k 32 then .wait
      else if pteTgt w0 != 0 || gran != sz then .fault
      else if cohNat s (k + 8) 8 ≤ cohNat s k 8 then .empty
      else match tr (poolNext s k) with
        | .fault _ _ _ => .fault
        | .miss => .wait
        | .ok a => if copyOwns s a 8 then .wait else .service k a

/-- The checks of Table 14.5 from SUP on that an entry alone answers. -/
def permFault (va : Nat) (want : Want) (w0 : W64) : Option Xl :=
  if pteSup w0 && !want.sup && !want.walker then some (.fault 0x09 4 va)
  else if want.rd && !pteRd w0 then some (.fault 0x09 1 va)
  else if want.wr && !pteWr w0 then some (.fault 0x09 2 va)
  else if want.ex && !pteEx w0 then some (.fault 0x09 3 va)
  else if want.refused.contains (pteTgt w0) then some (.fault 0x09 5 va)
  else none
/-- The checks of Table 14.5 from BADPTE on, for an entry; `cached` says that a TLB level holds it. -/
def checkPte (s : State) (desc : List Byte) (tr : Nat → Xl) (die c va : Nat) (want : Want) (w0 w1 : W64) (sz : Nat)
    (cached : Bool) : Xl :=
  if pteBad w0 w1 sz then .fault 0x0A 3 va
  else if pteFt w0 then
    match firstTouch s desc tr die c w0 sz with
    | .service _ _ => .miss
    | .wait => .miss
    | .empty => .fault 0x08 2 va
    | .fault => .fault 0x08 1 va
  else match permFault va want w0 with
  | some y => y
  | none => match pteKey s desc tr w0 w1 sz va with
    | .ok key =>
      if unitBound s key && !want.walker then .fault 0x09 6 va
      else if want.store && (match slotOf s want.team va with | some m => m.ro | none => false) then .fault 0x09 6 va
      else if cached || want.walker then .ok key else .miss
    | y => y

/-- The TLB levels that serve a core's sub-core, or the die's engines (R409). -/
def levelsOf : Option (Nat × Nat) → List TlbLevel
  | some (core, sub) => [.l0 core sub, .l1 core, .l2]
  | none => [.l2]
/-- The translations that the probe stage holds for a split's pending instruction (R409). -/
def heldOf (s : State) : Option (Nat × Nat) → List TlbEntry
  | some (uid, e) => (((findWave uid s).bind fun w => w.splits.find? fun x => x.idx == e).map (·.held)).getD []
  | none => []
/-- Does a held entry serve an access to an address (R410)? A store needs one with D set. -/
def TlbEntry.serves (c va : Nat) (wr : Bool) (e : TlbEntry) : Bool :=
  e.ctx == c && bitsOf va 51 12 / 2 ^ e.sz == e.vpn / 2 ^ e.sz && (!wr || pteD e.w0)
/-- The translation an access uses without a walk (R409, R410). -/
def tlbFind (s : State) (die c va : Nat) (want : Want) : Option TlbEntry :=
  match (heldOf s want.holder).find? (TlbEntry.serves c va want.wr) with
  | some e => some e
  | none => (levelsOf want.unit).findSome? fun l => (findDie s die).tlb.find? fun e => e.lvl == l && e.serves c va want.wr

/-- What the page tables or the window array hold for an address; `tr` translates the walker's own addresses. -/
def pteFound (s : State) (desc : List Byte) (tr : Nat → Xl) (va : Nat) : Found :=
  if inWindow desc va then windowPte s desc tr va else probeTables s desc va

/-- A translation with every check but the watch registers (Table 14.5). The fuel counts the walker's own translations:
window arrays and stripe sets. -/
def xlate : Nat → State → Nat → Nat → Nat → Want → Xl
  | 0, _, _, _, va, _ => .fault 0x0A 1 va
  | f + 1, s, die, c, va, want =>
    if !canonical va then .fault 0x0A 2 va
    else
      let a := va % 2 ^ 64
      let desc := ((findCtx s c).map (·.desc)).getD []
      let tr (x : Nat) : Xl := xlate f s die c x { rd := true, walker := true }
      match tlbFind s die c a want with
      | some e => checkPte s desc tr die c a want e.w0 e.w1 e.sz true
      | none =>
        match pteFound s desc tr a with
        | .missing => .fault 0x0A 1 a
        | .busy => .miss
        | .fault k sub x => .fault k sub x
        | .pte w0 w1 sz _ => checkPte s desc tr die c a want w0 w1 sz false

/-- The entry of an address as a walk reads it. -/
def pteOf (s : State) (die c va : Nat) : Found :=
  pteFound s (((findCtx s c).map (·.desc)).getD []) (fun x => xlate 3 s die c x { rd := true, walker := true }) va
/-- The target an address maps to, as the die's TLB or the tables hold it (Table 4.1). -/
def pageTarget (s : State) (die c va : Nat) : Option Nat :=
  match tlbFind s die c va {} with
  | some e => some (pteTgt e.w0)
  | none => match pteOf s die c va with
    | .pte w0 _ _ _ => some (pteTgt w0)
    | _ => none

/-- Watch register `i`'s answer to an access (R416): the subcause and the lowest byte that it covers. -/
def watchReg (desc : List Byte) (va n : Nat) (rd wr : Bool) (i : Nat) : Option (Nat × Nat) :=
  let w := bytesAt desc (0x240 + 16 * i) 8
  let base := bitsOf w 51 0
  let len := 2 ^ bitsOf w 57 52
  let a := va % 2 ^ 52
  if bitAt w 63 && base < a + n && a < base + len && ((rd && bitAt w 58) || (wr && bitAt w 59)) then
    some (if rd && bitAt w 58 then 1 else 2, max a base)
  else none
/-- The watch registers (R416): the subcause and the lowest overlapping byte, over all of them. Where several cover that
byte, the lowest-numbered one gives the subcause (assumption 27). -/
def watchHit (s : State) (c va n : Nat) (rd wr : Bool) : Option (Nat × Nat) :=
  let desc := ((findCtx s c).map (·.desc)).getD []
  if bytesAt desc 0x240 64 == 0 then none
  else
    let hits := (List.range 4).filterMap (watchReg desc va n rd wr)
    (hits.foldl (fun b x => match b with
      | some y => if x.2 < y.2 then some x else some y
      | none => some x) none).map fun x => (x.1, extend52 x.2)

/-- Translation of one access of `n` bytes, with the watch registers; fetches and the walker's reads are not watched. -/
def translate (s : State) (die c va n : Nat) (want : Want) : Xl :=
  match xlate 4 s die c va want with
  | .ok key =>
    match if want.walker then none else watchHit s c va n want.rd want.wr with
    | some (sub, a) => .fault 0x0F sub a
    | none => .ok key
  | y => y

/-- A probe of many addresses (R259): all places; a fault with its cause, subcause, lanes and address; or the address
whose walk is awaited. -/
inductive Probe where
  | ok (keys : List (Nat × Nat × Nat))
  | fault (cause sub : Nat) (mask : Mask) (addr : Nat)
  | miss (va : Nat)
deriving DecidableEq, Repr, Inhabited

/-- Probes the accesses (lane, address) of `n` bytes each, in ascending lane order. -/
def probe (s : State) (die c n : Nat) (want : Want) (accs : List (Nat × Nat)) : Probe :=
  let rs := accs.map fun a => (a.1, a.2, translate s die c a.2 n want)
  match rs.find? fun r => r.2.2 == .miss with
  | some r => .miss r.2.1
  | none =>
    match rs.findSome? fun r => match r.2.2 with | .fault k sub x => some (k, sub, x) | _ => none with
    | some (k, sub, x) =>
      .fault k sub (Mask.ofLanes (rs.filterMap fun r => match r.2.2 with
        | .fault k' _ _ => if k' == k then some r.1 else none
        | _ => none)) x
    | none => .ok (rs.filterMap fun r => match r.2.2 with | .ok key => some (r.1, r.2.1, key) | _ => none)

/-- A fault address as TRAPADDR holds it. -/
def addrW (a : Nat) : W64 := BitVec.ofNat 64 a

/-! ### Accesses of a team's agents (R107, R279) -/

/-- May the stash cache a team's line of the place (Table 4.1, R279): memory of this module, or of a peer's granule of a
STRIPE page? -/
def cacheable (s : State) (team : Option Nat) (va key : Nat) : Bool :=
  tgtOfKey key == 0 || (tgtOfKey key == 4 &&
    ((team.bind (findTeam s)).bind fun t => pageTarget s t.die t.ctx va) == some 1)

/-- A read by an agent: through the team's own mapped line, or at the home after a recall (R279). -/
def readAs (s : State) (team : Option Nat) (va key n : Nat) : State × List Byte :=
  let own := match slotOf s team va, findDirty s (64 * (key / 64)) with
    | some _, some (t, _) => cacheable s team va key && team == some t
    | _, _ => false
  let s' := if own then s else recallBytes key n s
  (s', cohRead s' key n)

/-- A write by an agent: into the team's mapped line, which becomes dirty, or at the home (R279). -/
def writeAs (s : State) (team : Option Nat) (va key : Nat) (bs : List Byte) : State :=
  match slotOf s team va, team with
  | some m, some t =>
    if cacheable s team va key && !unreachable s key then
      let line := 64 * (key / 64)
      let off := key % 64
      let put (old : List Byte) : List Byte := old.take off ++ bs ++ old.drop (off + bs.length)
      match findDirty s line with
      | some (o, d) =>
        if o == t then
          onTeam t (fun x => { x with dirty := x.dirty.map fun y => if y.key == line then { y with bytes := put d.bytes } else y }) s
        else
          let s := recallLine line s
          onTeam t (fun x =>
            { x with dirty := { slot := m.slot, va := va - off, key := line, bytes := put (cohRead s line 64) } :: x.dirty }) s
      | none =>
        onTeam t (fun x =>
          { x with dirty := { slot := m.slot, va := va - off, key := line, bytes := put (cohRead s line 64) } :: x.dirty }) s
    else writeHome s key bs
  | _, _ => writeHome s key bs

/-! ### The walker (R405, R409 to R411, R420) -/

/-- The entries of a level (Table 1.1, R409). -/
def TlbLevel.cap : TlbLevel → Nat
  | .l0 _ _ => 64
  | .l1 _ => 4096
  | .l2 => 65536
/-- Removes the `n`th entry that a predicate picks. -/
def dropNth (p : TlbEntry → Bool) : Nat → List TlbEntry → List TlbEntry
  | _, [] => []
  | n, e :: t => if p e then (match n with | 0 => t | n + 1 => e :: dropNth p n t) else e :: dropNth p n t
/-- A level takes an entry; a full one drops another first, whichever (R410). -/
def tlbPut (pick : Nat) (e : TlbEntry) (l : List TlbEntry) : List TlbEntry :=
  let l := l.filter fun x => !(x.lvl == e.lvl && x.ctx == e.ctx && x.vpn == e.vpn && x.sz == e.sz)
  let n := (l.filter fun x => x.lvl == e.lvl).length
  e :: if n < e.lvl.cap then l else dropNth (fun x => x.lvl == e.lvl) (pick % n) l
/-- A split's probe stage holds a translation (R409). -/
def Split.hold (e : TlbEntry) (x : Split) : Split :=
  { x with held := (e :: x.held.filter fun y => y.ctx != e.ctx || y.vpn != e.vpn || y.sz != e.sz).take 64 }
/-- The probe stage of the split that awaits it, if any, holds a translation (R409). -/
def holdEntry (e : TlbEntry) (holder : Option (Nat × Nat)) (s : State) : State :=
  match holder with
  | some (uid, i) => onWave uid (Wave.mapSplits fun x => if x.idx == i then x.hold e else x) s
  | none => s
/-- What the TLB levels give the addresses of an instruction. -/
def hitsOf (s : State) (die c : Nat) (want : Want) (vas : List Nat) : List TlbEntry :=
  if want.holder.isNone then [] else vas.filterMap fun va => tlbFind s die c (va % 2 ^ 64) want
/-- A translation is taken by the levels that serve the access, and held for its split. -/
def tlbFill (die c va : Nat) (want : Want) (w0 w1 : W64) (sz : Nat) (s : State) : State :=
  let e (l : TlbLevel) : TlbEntry := { lvl := l, ctx := c, vpn := bitsOf va 51 12 / 2 ^ sz * 2 ^ sz, sz := sz, w0 := w0, w1 := w1 }
  holdEntry (e .l2) want.holder
    (onDie die (fun d => { d with tlb := (levelsOf want.unit).foldr (fun l t => tlbPut (choose s 23 65536) (e l) t) d.tlb }) s)

/-- Built-in first-touch service of an entry at `k` (R420), with the pool descriptor at `p` and the next page's array entry at
`ak`: both are recalled, the page is taken and zeroed, the entry installed. -/
def serveFirst (s : State) (p ak die k : Nat) (w0 : W64) (sz : Nat) (wr : Bool) : State :=
  let s := recallBytes ak 8 (recallBytes p 32 s)
  let page := bitsOf (cohNat s ak 8) 43 12 * 4096
  let s := writeHome s p (bytesOf 8 (cohNat s p 8 + 1))
  let s := recallBytes (dramKey die page) (2 ^ (12 + sz)) s
  let s := memZero s (dramKey die page) (2 ^ (12 + sz))
  let s := writeHome s (k + 8) (bytesOf 8 (die * 2 ^ 58 + page))
  let w := (w0 &&& ~~~(0x40000000000001C0#64)) ||| 0x80#64 ||| (if wr then 0x40#64 else 0#64)
  writeHome s k (bytesOf 8 w.toNat)
/-- Is any byte of the pool page that a first touch would take and zero still a copy's (R127)? -/
def poolPageOwned (s : State) (die ak sz : Nat) : Bool :=
  copyOwns s (dramKey die (bitsOf (cohNat s ak 8) 43 12 * 4096)) (2 ^ (12 + sz))

/-- Recalls `n` bytes of a place that a translation answers with (R107). -/
def recallAt (x : Xl) (n : Nat) (s : State) : State := match x with | .ok k => recallBytes k n s | _ => s
/-- A walker's read. -/
def walkRd : Want := { rd := true, walker := true }
/-- A walker's own access to `n` bytes, by a walk of the next lower fuel: then dirty copies of them are recalled (R107). -/
def walkTo (walk : State → Nat → Want → State) (tr : State → Nat → Xl) (a n : Nat) (want : Want) (s : State) : State :=
  let s := walk s a want
  recallAt (tr s a) n s
/-- The walks to the pool descriptor of a first touch and to the array entry of its next page (R420). -/
def poolWalk (walk : State → Nat → Want → State) (tr : State → Nat → Xl) (desc : List Byte) (die : Nat) (s : State) : State :=
  let s := walkTo walk tr (poolEa desc die) 32 { walkRd with wr := true } s
  match tr s (poolEa desc die) with
  | .ok p => if cohNat s p 8 < cohNat s (p + 8) 8 then walk s (poolNext s p) walkRd else s
  | _ => s
/-- The walks to a stripe set and to the member that holds an offset of a page. -/
def stripeWalk (walk : State → Nat → Want → State) (tr : State → Nat → Xl) (desc : List Byte)
    (w1 : W64) (off : Nat) (s : State) : State :=
  let s := walkTo walk tr (stripeSet desc w1) 8 walkRd s
  match tr s (stripeSet desc w1) with
  | .ok k => walkTo walk tr (stripeMember desc w1 off (stripeCount s k)) 8 walkRd s
  | _ => s
/-- A walk (R405, R410, R411): the dirty copies of what it reads are recalled (R107), A, and for a write D, are set in the
entry by its compare-and-swap, and the TLB takes it; a first-touch entry is served first. A walk that a fault ends or that
finds BUSY writes nothing. -/
def walkFill : Nat → State → Nat → Nat → Nat → Want → State
  | 0, s, _, _, _, _ => s
  | f + 1, s, die, c, va, want =>
    let a := va % 2 ^ 64
    let desc := ((findCtx s c).map (·.desc)).getD []
    let walk (s : State) (x : Nat) (w : Want) : State := walkFill f s die c x w
    let tr (s : State) (x : Nat) : Xl := xlate 3 s die c x walkRd
    let s := if inWindow desc a then walkTo walk tr (windowEa desc a) 16 walkRd s
      else ((List.range 4).flatMap (bucketsOf desc a)).foldl (fun s b => recallBytes b 64 s) s
    match if canonical a then pteFound s desc (tr s) a else .missing with
    | .pte w0 w1 sz k =>
      if pteBad w0 w1 sz then s
      else if pteFt w0 then
        if !firstRouted s desc c || pteTgt w0 != 0 then s
        else
          let s := poolWalk walk tr desc die s
          match firstTouch s desc (tr s) die c w0 sz with
          | .service p ak =>
            if poolPageOwned s die ak sz then s else walkFill f (serveFirst s p ak die k w0 sz want.wr) die c va want
          | _ => s
      else if (permFault a want w0).isSome then s
      else
        let s := if pteTgt w0 == 1 then stripeWalk walk tr desc w1 (a % 2 ^ (12 + sz)) s else s
        match checkPte s desc (tr s) die c a want w0 w1 sz true with
        | .ok _ =>
          let w := w0 ||| 0x80#64 ||| (if want.wr then 0x40#64 else 0#64)
          let s := if w == w0 then s else writeHome s k (bytesOf 8 w.toNat)
          tlbFill die c a want w w1 sz s
        | _ => s
    | _ => s

/-- The agenda entry of a walk that an access waits for. -/
def walkFor (die c va : Nat) (want : Want) : Action := .event (.pageWalk die c (BitVec.ofNat 64 va) want)

/-- Drops TLB entries on every die (R434). -/
def dropTlb (f : TlbEntry → Bool) (s : State) : State :=
  { s with dies := s.dies.map fun d => { d with tlb := d.tlb.filter fun e => !f e } }
/-- Drops the translations that probe stages hold (R409, R434): an instruction that held one translates again. -/
def dropHeld (f : TlbEntry → Bool) (s : State) : State :=
  mapWaves (Wave.mapSplits fun x => { x with held := x.held.filter fun e => !f e }) s
/-- Drops translations as TLBINV does, wherever they are held (R434). -/
def dropEntries (f : TlbEntry → Bool) (s : State) : State := dropHeld f (dropTlb f s)
/-- Does an entry of a context overlap a range of addresses? -/
def tlbOverlaps (c base len : Nat) (e : TlbEntry) : Bool :=
  e.ctx == c && len != 0 && e.vpn * 4096 < base % 2 ^ 52 + len && base % 2 ^ 52 < e.vpn * 4096 + 2 ^ (12 + e.sz)

end Sys2Proof.Machine
end

