-- ==== Sys2Proof/Machine/Ops.lean ====
section
/-! DEFINITION. The operations every instruction shares: the order of checks before issue (R45, R53, R156, R157, R161,
R419, R503), issue, raising a trap, taking an exception and returning from one (R165, R184, R415 to R419), divergence,
serialisation and fusing (R143 to R157), and the halt line's raising (R424). -/
namespace Sys2Proof.Machine
open Sys2Proof

/-! ### What a meaning answers -/

/-- A trap to be raised: cause, subcause, TRAPMASK and TRAPADDR; the trap words and the address where they are not the
instruction's own; the engine work the trap holds (R311, R312, R346). -/
structure Raise where
  cause : Nat
  sub : Nat
  mask : Mask
  addr : W64 := 0
  word0 : Option W64 := none
  word1 : Option W64 := none
  work : HeldWork := .none
  pc : Option PC := none
  hdr : Bool := false
deriving DecidableEq, Repr, Inhabited

/-- What the body of an instruction answers, once the shared checks have passed. -/
inductive Eff where
  /-- it completes and the split goes on at the next instruction -/
  | next (s : State)
  /-- it completes and has itself set the split's address and state -/
  | jump (s : State)
  /-- it is not ready (R17): nothing issues; the actions awaited are put on the agenda -/
  | hold (acts : List Action)
  /-- it is not ready: a walk is awaited, and its probe stage holds what the TLB levels gave its other addresses (R409) -/
  | walk (act : Action) (hits : List TlbEntry)
  /-- it raises a trap and does not issue (R165) -/
  | trap (r : Raise)
deriving DecidableEq, Repr, Inhabited

/-- The answer of the checks that precede a body. -/
inductive Check where
  | go | hold | fuse | noWave
  | trap (r : Raise)
deriving DecidableEq, Repr, Inhabited

/-! ### Fields common to instructions -/

/-- The predicate fields: K, KN and S. -/
def predOf (i : Instr) : BitVec 4 × Bool × Bool :=
  match rowOf i with
  | some (f, _) => (f.k, f.kn, f.sc)
  | none =>
    match i with
    | .movi f => (f.k, f.kn, f.sc)
    | .sleep f => (f.k, f.kn, f.sc)
    | .bkpt f => (f.k, f.kn, f.sc)
    | .trap f => (f.k, f.kn, f.sc)
    | .bra f => (f.k, f.kn, false)
    | .brx f => (f.k, f.kn, false)
    | .call f => (f.k, f.kn, false)
    | .rjoin f => (f.k, f.kn, false)
    | .ld f => (f.k, f.kn, f.sc)
    | .st f => (f.k, f.kn, f.sc)
    | .xrnd f => (f.k, f.kn, f.sc)
    | .compst f => (f.k, f.kn, f.sc)
    | .expld f => (f.k, f.kn, f.sc)
    | .pref f => (f.k, f.kn, f.sc)
    | .fence f => (f.k, f.kn, f.sc)
    | .sflush f => (f.k, f.kn, f.sc)
    | .sinv f => (f.k, f.kn, f.sc)
    | .cwb f => (f.k, f.kn, f.sc)
    | .cinv f => (f.k, f.kn, f.sc)
    | .waitmem f => (f.k, f.kn, f.sc)
    | .atom f => (f.k, f.kn, false)
    | .atomn f => (f.k, f.kn, false)
    | .xadd f => (f.k, f.kn, false)
    | _ => (0, false, false)

/-- STALL (R51); the B, M and A formats have none. -/
def stallOf (i : Instr) : Nat :=
  match rowOf i with
  | some (f, _) => f.stall.toNat
  | none =>
    match i with
    | .movi f => f.stall.toNat
    | .sleep f => f.stall.toNat
    | .bkpt f => f.stall.toNat
    | .trap f => f.stall.toNat
    | _ => 0

/-- active(split) of Table 0.2: MASK and the predicate, or its complement (R42). -/
def activeOf (s : State) (k : BitVec 4) (kn : Bool) : Mask :=
  s.wave.cur.mask &&& (if kn then ~~~rdK s k.toNat else rdK s k.toNat)

/-- The instruction's first word in D form (R46). -/
def word0Of (i : Instr) : W64 := (encode (expand i)).headD 0
/-- The extension word, or zero. -/
def word1Of (i : Instr) : W64 := (encode (expand i)).getD 1 0

/-- Does the instruction need the whole wave, FUSE, REGROUP and HRET included (R19, R156, R166, R191)? -/
def needsFuse (i : Instr) : Bool :=
  match i with
  | .hret _ => true
  | _ => wholeWord (word0Of i)
/-- Is it checked for the whole wave before it issues (R157)? FUSE, REGROUP and HRET are not. -/
def wholeChecked (i : Instr) : Bool :=
  match i with
  | .fuse _ => false
  | .regroup _ _ => false
  | .hret _ => false
  | _ => wholeWord (word0Of i)

/-- What the handle of a tensor instruction adds to its registers (Table 9.5, R286). -/
def dynOf (s : State) (i : Instr) : Dyn :=
  let of (h : BitVec 4) : Dyn :=
    { rank := ((rdH s h.toNat 4).extractLsb' 8 2).toNat, wide := tyRegs ((rdH s h.toNat 4).extractLsb' 0 4) == 2 }
  match i with
  | .tld _ x => of x.hnd
  | .tst _ x => of x.hnd
  | _ => Dyn.static
/-- The registers an instruction reads at this state, with their EP bits. -/
def srcsAt (s : State) (i : Instr) : List (Reg × Bool) := srcsOf s.wave.width (dynOf s i) i
/-- The registers an instruction writes at this state. -/
def dstsAt (s : State) (i : Instr) : List Reg := dstsOf s.wave.width (dynOf s i) i

/-! ### Fates (Tables 2.8, 10.2; R45, R171, R184, R194, R230, R296, R434, R441, R448) -/

/-- Is the register within the wave's count, and at most v127 on an L-core (R41)? -/
def regOk (s : State) : Reg → Bool
  | .v n => n < s.wave.regs && (!s.wave.isL || n ≤ 127)
  | _ => true

/-- Does the instruction at the executing address end its block? -/
def lastInBlock (s : State) (i : Instr) : Bool :=
  match blkOf s with
  | some b => pcOf s + BitVec.ofNat 49 (instrLen s.wave.isL i) == b.endPc s.wave.isL
  | none => true

/-- The rules a well-formed instruction meets only in its context. QLD and QST stand in access slices alone (R294), but on an
L-core they are ABSENT (R441). The rules concern the core instruction `i`, which stands in
its block as `i0`; what a register holds is no part of them (R503). -/
def contextOk (s : State) (i0 i : Instr) : Bool :=
  let rs := (srcsOf s.wave.width Dyn.static i).map (·.1) ++ dstsOf s.wave.width Dyn.static i
  rs.all (regOk s) &&
  (match i with
    | .bra _ => lastInBlock s i0
    | .brx _ => lastInBlock s i0
    | .call _ => lastInBlock s i0
    | .ret _ => lastInBlock s i0
    | .migrate _ => lastInBlock s i0
    | .hret _ => s.wave.cur.h
    | .exit _ => !s.wave.cur.h
    | .swr f => (specIdx f.a != 0x11 && specIdx f.a != 0x12) || s.wave.cur.h
    | .tlbinv _ => s.wave.cur.h || cflag s s.wave.ctx 1
    | .qld _ _ => s.wave.isL
    | .qst _ _ => s.wave.isL
    | .qnt _ => 16 ≤ s.wave.width
    | .dqnt _ => 16 ≤ s.wave.width
    | .mrd f => f.d.toNat % (256 / s.wave.width) == 0
    | .mwr f => (match f.a with | .v n => n.toNat % (256 / s.wave.width) == 0 | _ => false)
    | _ => true)

/-- Is an instruction accepted in access code (Table 10.2, R296, R297)? -/
def accessOk (s : State) (i : Instr) : Bool :=
  let rs := srcsOf s.wave.width Dyn.static i ++ (dstsOf s.wave.width Dyn.static i).map fun r => (r, false)
  let regs := rs.all fun r => !r.2 && (match r.1 with
    | .s n => n < 32
    | .k _ => (match i with | .bra _ => true | _ => false)
    | .v _ => false)
  formOk i && regs &&
  (match i with
    | .nop _ => true
    | .yield _ => true
    | .bra f => f.bmod == 0#4 && lastInBlock s i
    | .exit f => f.k == 0#4 && !f.kn
    | .srd f => f.sc && specIdx f.a != 0
    | .movi f => f.sc
    | .ld f => f.sc && f.ord == 0#2 && !f.strm && f.mty != 4#4
    | .st f => f.sc && f.ord == 0#2 && !f.strm && f.mty != 4#4
    | .qld _ _ => true
    | .qst _ _ => true
    | .qstat _ => true
    | .psync _ => true
    | .qclose _ => true
    | .iaddc _ => false
    | _ => let op := opOf (word0Of i); 0x40 ≤ op && op ≤ 0x5D && (predOf i).2.2)

/-- The subcause of ILLOP an instruction meets at decode, none where it is accepted (Table 2.8). Under MODE.COMPAT bit 2 an
IDIV or IREM that breaks Table 7.1 too is UNASSIGNED: R230 makes the opcode unassigned, whose row comes first; that this holds
of a malformed one is the model's choice (assumption 11). -/
def fateOf (s : State) (i0 : Instr) : Option Nat :=
  let i := expand i0
  let div := match i with | .idiv _ => true | .irem _ => true | _ => false
  if specUnassigned i || (div && s.wave.mode.getLsbD 10) then some 1
  else if s.acc then (if accessOk s i then (if div then some 3 else none) else some 2)
  else if !formOk i || !contextOk s i0 i then some 2
  else if div then some 3
  else if s.wave.isL && absentOnL (opOf (word0Of i)) then some 4
  else none

/-- TRAPMASK of an ILLOP at decode (R503): the active set, or MASK for the scalar form and a whole-wave instruction. -/
def fateMask (s : State) (i0 : Instr) : Mask :=
  let i := expand i0
  let p := predOf i
  if p.2.2 || wholeWord (word0Of i) then s.wave.cur.mask else activeOf s p.1 p.2.1

/-! ### Readiness (R17, R53, R161, R164, R419) -/

/-- Does a split of the wave run its handler? -/
def anyHandler (w : Wave) : Bool := w.splits.any fun x => x.h
/-- A register that the handler shares with the rest of the wave (R419). -/
def sharedReg : Reg → Bool
  | .s n => n < 16
  | .k n => 1 ≤ n && n ≤ 3
  | .v _ => false

/-- Do the wave's pending traps forbid another issue of a split with H = 0 (R164)? -/
def seqFull (w : Wave) : Bool := w.splits.any fun x => x.trap.isSome && 2 ^ 31 ≤ (w.seq + 1 - x.tseq).toNat

/-- The sources that trap when empty and are empty: their lanes (R53). -/
def emptyTrapMask (s : State) (i : Instr) : Option Mask :=
  let bad := (srcsAt s i).filter fun r => r.2 && emptyAny s r.1
  if bad.isEmpty then none else some (bad.foldl (fun m r => m ||| emptyLanes s r.1) 0)

/-- In access code the predicate of BRA is an s-register (R297). -/
def accessReg (acc : Bool) : Reg → Reg
  | .k n => if acc then .s n else .k n
  | r => r
/-- Does an empty source or a destination awaited hold the instruction (R17, R53)? -/
def awaits (s : State) (i : Instr) : Bool :=
  ((srcsAt s i).any fun r => emptyAny s (accessReg s.acc r.1)) || ((dstsAt s i).any fun r => emptyAny s r)

/-- Has every access that the split's issued TLBINV waits for been performed (R434)? The numbers are those of accesses, of
copies, whose signals may still be owed, and of raster batches. A copy that is to be translated again uses no old entry. -/
def invalDone (s : State) (x : Split) : Bool :=
  x.inval.all fun n => !(s.pend.any fun p => p.id == n) &&
    !(s.tags.any fun t => t.state == .busy && (t.copy.any fun c => c.order == n && !c.stale)) &&
    !(s.owed.any fun o => o.id == n) && !(s.dies.any fun d => d.raster.any fun b => b.id == n)
/-- May the split in focus issue in this cycle at all (R161, R180, R434)? -/
def splitRuns (s : State) : Bool :=
  s.wave.cur.mask != 0#64 && s.wave.cur.state == .ready && !s.wave.cur.stop && s.wave.cur.nextIssue ≤ s.cycle &&
  ctxRuns s s.wave.ctx && s.wave.parked.isNone && invalDone s s.wave.cur
/-- Do handler or sequence rules hold a split with H = 0 (R164, R419)? -/
def heldByHandler (s : State) (i : Instr) : Bool :=
  !s.wave.cur.h && ((anyHandler s.wave && (((srcsAt s i).any fun r => sharedReg r.1) || ((dstsAt s i).any sharedReg))) ||
    seqFull s.wave)

/-- Is the instruction a command of an engine (R16, R17): of the memory unit, the Porter, the Courier, the matrix unit, a
texture unit or a raster engine? -/
def engineCmd (i : Instr) : Bool := 0xA0 ≤ opOf (word0Of i)
/-- Does R17 hold a command because its destination awaits an earlier producer? -/
def engineAwaits (s : State) (i : Instr) : Bool := engineCmd i && (dstsAt s i).any fun r => emptyAny s r

/-- The checks before issue, in order: decode (R45, R503), the forced fuse (R156) and its check (R157), the handler's
registers (R419), an engine that cannot take the command (R17, R325: `full` and `engineAwaits`), empty sources (R53) and what is
awaited. -/
def issueCheck (i0 : Instr) (s : State) (full : Bool := false) : Check :=
  let i := expand i0
  if !s.wave.live then .noWave
  else if s.acc then
    match s.wave.thread with
    | none => .hold
    | some t =>
      if t.done || t.fault.isSome || !ctxRuns s s.wave.ctx || s.wave.liveLanes == 0#64 then .hold
      else match fateOf s i0 with
        | some sub => .trap { cause := 1, sub := sub, mask := 0 }
        | none => if awaits s i then .hold else .go
  else if !splitRuns s then .hold
  else match fateOf s i0 with
    | some sub => .trap { cause := 1, sub := sub, mask := fateMask s i0 }
    | none =>
      if needsFuse i && !s.wave.cur.fused then .fuse
      else
        let p := predOf i
        let whole (m : Mask) : Bool := m &&& s.wave.all == s.wave.all
        let k := if p.2.1 then ~~~rdK s p.1.toNat else rdK s p.1.toNat
        if wholeChecked i && !(whole s.wave.cur.mask && whole k) then
          .trap { cause := 3, sub := 1, mask := s.wave.cur.mask }
        else if heldByHandler s i || full || engineAwaits s i then .hold
        else match emptyTrapMask s i with
          | some m => .trap { cause := 2, sub := 0, mask := m }
          | none => if awaits s i then .hold else .go

/-! ### Equivalence points and TRAPPC2 (R443, R446) -/

/-- `n` bytes of a code version at an offset, as its object has them (R66, R446: they depend on the version alone). -/
def Version.num (v : Version) (off n : Nat) : Nat := bytesAt v.obj off n
/-- A version by its ID. -/
def findVer (s : State) (c v : Nat) : Option Version := (findCtx s c).bind fun x => x.vers.find? fun y => y.id == v

/-- The offset of the first section of a TYPE in a version's object (Table 2.16b). -/
def Version.section? (v : Version) (ty : Nat) : Option Nat :=
  let so := v.num 0x10 8
  (List.range (v.num 0x0C 2)).findSome? fun j => if v.num (so + 32 * j) 4 == ty then some (v.num (so + 32 * j + 8) 8) else none
/-- The address at which a section of a TYPE stands; the object's own, where it has none. -/
def Version.sectionVa (v : Version) (ty : Nat) : Nat := v.va.toNat + (v.section? ty).getD 0

/-- An equivalence entry with its blocks' addresses (Table 15.3). -/
structure Equiv where
  id : Nat
  kidx : Nat
  flags : Nat
  d : PC
  l : PC
  map : Nat
deriving DecidableEq, Repr, Inhabited

/-- The equivalence entries of a version; `map` is the offset of the entry's map in its object. -/
def Version.equivs (v : Version) : List Equiv :=
  match v.section? 3 with
  | none => []
  | some ea =>
    (List.range (v.num ea 4)).map fun j =>
      let b := ea + 16 + 24 * j
      { id := v.num b 2, kidx := v.num (b + 2) 2, flags := v.num (b + 4) 4,
        d := BitVec.ofNat 49 (v.sectionVa 1 / 8 + v.num (b + 8) 4),
        l := BitVec.ofNat 49 (v.sectionVa 2 / 4 + v.num (b + 12) 4), map := (v.section? 4).getD 0 + v.num (b + 16) 4 }

/-- A grid. -/
def findGrid (s : State) (g : Nat) : Option Grid := s.grids.find? fun x => x.uid == g

/-- Is an equivalence entry of the wave's own kernel? -/
def ownKernel (s : State) (w : Wave) (v : Version) (e : Equiv) : Bool :=
  match findGrid s w.grid with
  | none => false
  | some g => v.sectionVa 1 / 8 + v.num (v.num 0x18 8 + 64 * e.kidx + 8) 8 == g.entryD

/-- TRAPPC2 of a trap at an address (R446). -/
def trapPc2 (s : State) (w : Wave) (pc : PC) : W64 :=
  match findVer s w.ctx w.ver with
  | none => 0
  | some v =>
    let own (e : Equiv) : PC := if w.isL then e.l else e.d
    let es := (v.equivs.filter (ownKernel s w v)).filter fun e => (own e).toNat ≤ pc.toNat
    match es.foldl (fun (best : Option Equiv) e => match best with
        | some b => if (own b).toNat < (own e).toNat then some e else some b
        | none => some e) none with
    | some e => 1#1 ++ 0#14 ++ (if w.isL then e.d else e.l)
    | none => 0

/-! ### The halt line (R424) -/

/-- The order of halt reasons that arise in one fabric cycle (R502). -/
def Reason.rank : Reason → Nat
  | .none => 0
  | .preempt => 1
  | .host => 2
  | .unload => 3
  | .fatal => 4
  | .security => 5
/-- Raises a context's halt line. A context that does not run is left alone, but for a higher reason in the cycle of the
raise (R433, R502). -/
def raiseHalt (c : Nat) (r : Reason) (fatal : Option (Nat × Nat × Trap)) (s : State) : State :=
  onCtx c (fun x =>
    if x.state == .running then { x with state := .halting, reason := r, inc := none, acks := [], fatal := fatal, haltAt := s.clock }
    else if x.state == .halting && x.haltAt == s.clock && x.reason.rank < r.rank then
      { x with reason := r, inc := none, fatal := fatal }
    else x) s

/-! ### Raising a trap (R165) -/

/-- Marks the held fault that a trap carries as raised, or as not raised (R312). -/
def markTaken (b : Bool) (work : HeldWork) (w : Wave) : Wave :=
  match work with
  | .thread => { w with thread := w.thread.map fun t => { t with fault := t.fault.map fun h => { h with taken := b } } }
  | .stream id _ =>
    { w with streams := w.streams.map fun t => if t.id == id then { t with fault := t.fault.map fun h => { h with taken := b } } else t }
  | _ => w

/-- The split in focus raises a trap and enters TRAPQ with the next sequence number. -/
def raiseSplit (r : Raise) (w0 w1 : W64) (s : State) : State :=
  let w := s.wave
  let pc := r.pc.getD w.cur.pc
  let t : Trap :=
    { cause := r.cause, sub := r.sub, mask := r.mask, addr := r.addr, pc := pc, pc2 := trapPc2 s w pc,
      word0 := r.word0.getD w0, word1 := r.word1.getD w1, hdr := r.hdr }
  let c : Split :=
    { w.cur with
      state := .trapq, tseq := w.seq + 1, trap := some t, work := r.work, skip := false, cur := false, fused := false,
      readyCount := 0, missCount := 0, deadline := 0, held := [] }
  { s with wave := markTaken true r.work { w with seq := w.seq + 1, cur := c } }

/-- The access thread meets a trap (R312): ILLOP raises the halt line; any other is held until the wave's next queue
instruction. -/
def raiseThread (r : Raise) (w0 w1 : W64) (s : State) : State :=
  let pc := r.pc.getD (pcOf s)
  if r.cause == 1 then
    let t : Trap :=
      { cause := r.cause, sub := r.sub, mask := 0, addr := r.addr, pc := pc, pc2 := trapPc2 s s.wave pc, word0 := w0,
        word1 := w1, hdr := r.hdr }
    raiseHalt s.wave.ctx .fatal (some (s.wave.uid, 32, t)) s
  else onThread (fun t =>
    { t with fault := some { cause := r.cause, sub := r.sub, mask := 0, addr := r.addr, pc := pc, taken := false } }) s

/-- Raises a trap at the executing instruction. -/
def raise (r : Raise) (i : Instr) (s : State) : State :=
  if s.acc then raiseThread r (word0Of i) (word1Of i) s else raiseSplit r (word0Of i) (word1Of i) s

/-! ### Issue -/

/-- How many splits of the sub-core have CUR = 1 (R162). -/
def curCount (s : State) : Nat := ((subWaves s).flatMap fun w => w.splits.filter fun x => x.cur).length

/-- The bookkeeping of an issue: the sequence number (R164), the STALL distance (R51), CUR (R162), SKIP (R178). -/
def issued (i : Instr) (s : State) : State :=
  if s.acc then onThread (fun t => { t with issued := s.cycle }) s
  else
    let w := s.wave
    let yh := match w.cur.blk with | some b => b.yh && w.cur.pc == b.first w.isL | none => false
    { s with wave := { w with seq := w.seq + 1, cur := { w.cur with
        nextIssue := s.cycle + 1 + (if runsNative s then stallOf (expand i) else 0),
        cur := !yh && (w.cur.cur || curCount s < 4), skip := false, fused := false, readyCount := 0, missCount := 0,
        inval := [] } } }

/-- The executing split or thread goes to the next instruction; the split's probe stage holds its translations no longer (R409).
-/
def advance (i : Instr) (s : State) : State :=
  let n := BitVec.ofNat 49 (instrLen s.wave.isL i)
  if s.acc then onThread (fun t =>
    { t with pc := t.pc + n, blk := t.blk.filter fun b => b.has false (t.pc + n) }) s
  else onCur (fun c => { c.goto s.wave.isL (c.pc + n) with held := [] }) s

/-- Is a fixed-latency instruction's 64-bit column meant: its TYPE or destination pair (R231), or the source of a
floating-point conversion (R254)? -/
def wideLat (i : Instr) : Bool :=
  match i with
  | .fcvt f => tyRegs f.ty == 2 || tyRegs (BitVec.ofNat 4 (ctlOf f.b)) == 2
  | .ftoi f => tyRegs f.ty == 2 || tyRegs (BitVec.ofNat 4 (ctlOf f.b)) == 2
  | .itof f => tyRegs f.ty == 2 || tyRegs (BitVec.ofNat 4 (ctlOf f.b)) == 2
  | .movi f => tyRegs f.ty == 2
  | i => match rowOf i with | some (f, _) => tyRegs f.ty == 2 | none => false

/-- Fixed latencies in D sub-core cycles, for v-register results (Tables 6.5, 7.3, 8.5; R319). -/
def latencyOf (i : Instr) : Nat :=
  let op := opOf (word0Of i)
  let fl := match rowOf i with | some (f, _) => decide (f.ty.toNat ≥ 8) | none => false
  let sr := match i with | .fcvt f => bitAt (ctlOf f.b) 4 | _ => false
  let sel (a b : Nat) : Nat := if wideLat i then b else a
  let among (l : List Nat) : Bool := l.contains op
  if op == 0x14 || op == 0xC1 then 2
  else if among [0x20, 0x22, 0x23, 0x26] then sel 2 4
  else if among [0x24, 0x2D, 0x2E] then sel 3 5
  else if op == 0x25 then sel 4 6
  else if op == 0x27 || op == 0x28 then sel 6 8
  else if 0x29 ≤ op && op ≤ 0x2C then (if fl then sel 16 20 else sel 10 12)
  else if among [0x4A, 0x4B, 0x4C, 0x57, 0x58, 0x59] then 1
  else if among [0x40, 0x41, 0x42, 0x47, 0x48, 0x49, 0x4D, 0x4E, 0x4F, 0x50, 0x56] then sel 2 3
  else if op == 0x5A then 2
  else if among [0x51, 0x52, 0x53, 0x54, 0x55, 0x5B] then sel 3 4
  else if among [0x43, 0x44, 0x45] then sel 4 8
  else if op == 0x46 then 4
  else if among [0x74, 0x75, 0x76, 0x77] then sel 2 3
  else if op == 0x81 && sr then sel 4 6
  else if among [0x81, 0x82, 0x83, 0x86, 0x87] then sel 3 5
  else if among [0x70, 0x71, 0x72, 0x73, 0x78] then sel 4 8
  else if op == 0x85 then 6
  else if op == 0x79 || op == 0x7A then sel 8 16
  else if op == 0x7D || op == 0x7E then 10
  else if op == 0x7B || op == 0x7C then sel 12 24
  else if op == 0x84 then 12
  else if op == 0x7F || op == 0x80 then 14
  else 0

/-- The lanes whose destination an instruction writes: the active ones, but for COMPRESS and EXPAND (R203). -/
def writtenLanes (s : State) (i : Instr) : Mask :=
  let p := predOf i
  let act := activeOf s p.1 p.2.1
  let sel (o : Operand) : Mask := match o with | .mask k => act &&& rdK s k.toNat | _ => 0
  match i with
  | .compress f => Mask.ofLanes ((Mask.lanes act).take (Mask.lanes (sel f.b)).length)
  | .expand f => sel f.b
  | _ => act
/-- A hazard as a later write to registers in some lanes leaves it: the later result takes those lanes over (R51). -/
def Hazard.rewritten (lanes : Mask) (regs : List Reg) (h : Hazard) : Hazard :=
  if regs.contains (.v h.reg) then { h with lanes := h.lanes &&& ~~~lanes } else h
/-- The v-registers an instruction has written, with the cycle each is readable from in native mode (R51). -/
def addHazards (lat : Nat) (lanes : Mask) (regs : List Reg) (s : State) : State :=
  if s.acc then s
  else onCur (fun c => { c with hazards :=
      (if runsNative s && 1 < lat then regs.filterMap fun r => match r with
        | .v n => some { reg := n, lanes := lanes, ready := s.cycle + lat : Hazard }
        | _ => none
      else []) ++ (c.hazards.map (Hazard.rewritten lanes regs)).filter fun h => s.cycle < h.ready && h.lanes != 0#64 }) s

/-- The shared shape of every instruction: the checks, then its body. `lat` is its fixed latency, and `full` says that its
engine cannot take it now (R17). -/
def issueWith (full : State → Bool) (lat : Instr → Nat) (i : Instr) (s : State)
    (body : State → Eff) (enterFuse : State → State) : Out :=
  match issueCheck i s (full s) with
  | .noWave => .fault .noWave
  | .hold => .next s
  | .fuse => .next (enterFuse s)
  | .trap r => .next (raise r i s)
  | .go =>
    match body (issued i s) with
    | .next t =>
      .next (addHazards (lat (expand i)) (writtenLanes s (expand i)) (dstsAt s (expand i)) (advance i t))
    | .jump t => .next t
    | .hold acts => .next { s with agenda := acts ++ s.agenda }
    | .walk a es =>
      .next (es.foldr (fun e s => holdEntry e (some (s.wave.uid, s.wave.cur.idx)) s) { s with agenda := a :: s.agenda })
    | .trap r => .next (raise r i s)

/-! ### Fusing (R148 to R157) -/

/-- Is the instruction at the split's address one of a kind? -/
def atInstr (w : Wave) (p : Instr → Bool) (x : Split) : Bool :=
  match x.instr w.isL with
  | some i => p (expand i)
  | none => false
def isFuseI : Instr → Bool
  | .fuse _ => true
  | _ => false
def isHretI : Instr → Bool
  | .hret _ => true
  | _ => false

/-- Hands a fused member's deferrals to the survivor (R153, R156). -/
def ownDefs (members : List Nat) (e : Nat) (ds : List Deferral) : List Deferral :=
  ds.map fun d => if members.contains d.owner then { d with owner := e } else d

/-- The member with the lowest AGE. -/
def oldest (ms : List Split) : Option Split :=
  ms.foldl (fun b x => match b with
    | some y => if x.born < y.born then some x else some y
    | none => some x) none

/-- Fuses the members of a group: the survivor takes the union of their masks and their deferrals, once every member's
results are written (R54); `upd` completes it. -/
def fuseGroup (cycle : Nat) (w : Wave) (ms : List Split) (upd : Split → Split) : Wave :=
  match oldest ms with
  | none => w
  | some v =>
    let idxs := ms.map (·.idx)
    let v' := upd { v with mask := ms.foldl (fun m x => m ||| x.mask) 0, state := .ready, hazards := [],
                           nextIssue := ms.foldl (fun t x => max t x.settled.nextIssue) (cycle + 1), deadline := 0 }
    let rest := w.splits.filter fun x => !idxs.contains x.idx
    let at_ := if idxs.contains w.cur.idx then v.idx else w.cur.idx
    { w with defs := ownDefs idxs v.idx w.defs }.withSplits at_ (v' :: rest)

/-- Pops the record a completed group waited on and moves past the RJOIN (R153). -/
def pastRjoin (isL : Bool) (x : Split) : Split :=
  { x with rj := x.rj.drop 1 }.goto isL (x.pc + if isL then 2 else 1)

/-- The members of G(x): splits in RJWAIT whose top record is at `x`, with one H (R152). -/
def rjMembers (w : Wave) (x : PC) (h : Bool) : List Split :=
  w.splits.filter fun y => y.state == .rjwait && y.h == h && (y.rj.head?.map (·.addr)) == some x

/-- Has G(x) completed by arrival (R152)? A member with STOP set holds it (R180). -/
def rjComplete (w : Wave) (ms : List Split) : Bool :=
  let req := ms.foldl (fun m y => m ||| (y.rj.head?.map (·.mask)).getD 0) 0
  let have_ := ms.foldl (fun m y => m ||| y.mask) 0
  !ms.isEmpty && (ms.all fun y => !y.stop) && (req &&& ~~~have_ &&& ~~~w.exited &&& w.all) == 0#64

/-- Members of G(x) leave together, and every other split's record of x is marked LATE (R154). -/
def leaveRj (cycle : Nat) (w : Wave) (x : PC) (ms : List Split) : Wave :=
  let sv := (oldest ms).map (·.idx)
  (fuseGroup cycle w ms (pastRjoin w.isL)).mapSplits fun y =>
    if some y.idx == sv then y
    else { y with rj := y.rj.map fun r => if r.addr == x then { r with late := true } else r }
/-- Completes G(x) if it has arrived. Under MODE.COMPAT bit 0 a last arrival in the cycle in which a deadline expires loses:
the members present before that cycle fuse, and those that arrived in it pass as latecomers (R154, Table 2.17). -/
def tryRj (cycle : Nat) (w : Wave) (key : PC × Bool) : Wave :=
  let ms := rjMembers w key.1 key.2
  let early := ms.filter fun y => y.nextIssue ≤ cycle
  if !rjComplete w ms then w
  else if w.mode.getLsbD 8 && (early.any fun y => y.deadline == 0#32) && early.length < ms.length then
    let late := (ms.filter fun y => cycle < y.nextIssue).map (·.idx)
    (leaveRj cycle w key.1 early).mapSplits fun y =>
      if late.contains y.idx then { pastRjoin w.isL y with state := .ready, deadline := 0 } else y
  else fuseGroup cycle w ms (pastRjoin w.isL)

/-- Where a split in FFWAIT waits: its address, or any HRET in a handler (R166). -/
def ffKey (w : Wave) (x : Split) : Option PC := if x.h && atInstr w isHretI x then none else some x.pc
/-- The members of F(p) (R156). -/
def ffMembers (w : Wave) (p : Option PC) (h : Bool) : List Split :=
  w.splits.filter fun y => y.state == .ffwait && y.h == h && ffKey w y == p

/-- The lanes F(p) waits for: every lane that has not exited, or for H = 1 the trapped split's (R156). -/
def ffRequired (w : Wave) (h : Bool) : Mask :=
  if h then ((w.splits.findSome? fun x => x.handler).map (·.mask)).getD 0 &&& w.liveLanes else w.liveLanes

/-- Completes F(p) if every lane has arrived: a FUSE goes on at the next instruction, any other then issues (R156, R157). -/
def tryFf (cycle : Nat) (w : Wave) (key : Option PC × Bool) : Wave :=
  let ms := ffMembers w key.1 key.2
  let have_ := ms.foldl (fun m y => m ||| y.mask) 0
  if ms.isEmpty || (ms.any fun y => y.stop) || (ffRequired w key.2 &&& ~~~have_) != 0#64 then w
  else fuseGroup cycle w ms fun v =>
    if atInstr w isFuseI v then
      { v with fused := false }.goto w.isL (v.pc + BitVec.ofNat 49 (((v.instr w.isL).map (instrLen w.isL)).getD 1))
    else { v with fused := true }

/-- Completes by arrival every group G(x) and F(p) of a wave (step 4 of Table 5.9). -/
def completeGroups (cycle : Nat) (w : Wave) : Wave :=
  let ks := (w.splits.filter fun x => x.state == .rjwait).filterMap fun x => x.rj.head?.map fun r => (r.addr, x.h)
  let w := ks.foldl (tryRj cycle) w
  let fs := (w.splits.filter fun x => x.state == .ffwait).map fun x => (ffKey w x, x.h)
  fs.foldl (tryFf cycle) w

/-- The topmost pending deferral of the split in focus, at its own H. -/
def pendingOf (w : Wave) (e : Nat) : Option Deferral := w.defs.find? fun d => d.owner == e && d.h == w.cur.h && !d.held
/-- Removes the first deferral equal to `d`. -/
def dropDef (d : Deferral) : List Deferral → List Deferral
  | [] => []
  | x :: t => if x = d then t else x :: dropDef d t
/-- Loads a deferral as the running path of the split in focus (R148, R149). -/
def loadPath (cycle : Nat) (d : Deferral) (w : Wave) : Wave :=
  let c : Split :=
    { w.cur with
      mask := d.mask, pc := d.pc, blk := d.blk, posted := d.posted, h := d.h, handler := if d.h then w.cur.handler else none,
      state := .ready, hazards := [], skip := false, fused := false, nextIssue := max w.cur.settled.nextIssue (cycle + 1), held := [] }
  { w with defs := dropDef d w.defs, cur := c }

/-- A serialisation stop (R148): the running lanes become a held deferral and the topmost pending path runs. The manual
gives the new deferral's mask and address; its RJADDR is that of the path's branch, the one of the pending deferral beside it
(assumption 15). -/
def stopPath (cycle : Nat) (d : Deferral) (w : Wave) : Wave :=
  let held : Deferral := { mask := w.cur.mask, pc := w.cur.pc, held := true, h := w.cur.h, rj := d.rj, owner := w.cur.idx,
                           blk := w.cur.blk, posted := w.cur.posted }
  loadPath cycle d { w with defs := held :: w.defs }

/-- Takes into MASK every held deferral of the entry at its address, or at the header whose block that address opens (R149). -/
def takeHeld (w : Wave) : Wave :=
  let here (d : Deferral) : Bool := d.held && d.owner == w.cur.idx && d.h == w.cur.h &&
    (d.pc == w.cur.pc || (match w.cur.blk with | some b => b.first w.isL == w.cur.pc && d.pc == b.hdr | none => false))
  { w with defs := w.defs.filter fun d => !here d,
           cur := { w.cur with mask := (w.defs.filter here).foldl (fun m d => m ||| d.mask) w.cur.mask } }

/-- The split in focus reaches a whole-wave instruction, FUSE or a handler's HRET: a stop of a serialised path, or FFWAIT
(R148, R149, R156). -/
def enterFuse (s : State) : State :=
  match pendingOf s.wave s.wave.cur.idx with
  | some d => onFocus (stopPath s.cycle d) s
  | none => onFocus (fun w => let w := takeHeld w; { w with cur := { w.cur with state := .ffwait, cur := false } }) s

/-- The shared shape of every instruction. -/
def issue (i : Instr) (s : State) (body : State → Eff) : Out := issueWith (fun _ => false) latencyOf i s body enterFuse
/-- The shape of a command of an engine that `full` says cannot take it (R17). -/
def issueEng (full : State → Bool) (i : Instr) (s : State) (body : State → Eff) : Out := issueWith full latencyOf i s body enterFuse

/-! ### Divergence (R143 to R147, R175) -/

/-- step of R145. -/
def lfStep (x : W32) : W32 := (x >>> 1) ^^^ (if x.getLsbD 0 then 0x80200003#32 else 0#32)

/-- A split sent to a header's address by a branch: the block there is fetched and checked (R27). -/
def Split.sendTo (pc : PC) (sp : Split) : Split := { sp with pc := pc, blk := none, held := [] }

/-- The state of a division in progress: the entries made, the deferral stack, and what still divides. -/
structure Division where
  free : List Nat
  born : Nat
  done : List Split
  defs : List Deferral
deriving DecidableEq, Repr, Inhabited

/-- A deferred set (R147): held where its target is the rejoin point, else pending. -/
def deferOf (owner : Nat) (h : Bool) (x : Option PC) (g : Mask × PC) : Deferral :=
  { mask := g.1, pc := g.2, held := x == some g.2, h := h, rj := x, owner := owner, blk := none, posted := none }

/-- The deferrals when lanes of an entry go to a new one: what they keep of the new entry's quads is the new entry's from then on,
so that each quad is held by one entry (R140; assumption 15). -/
def handOver (src dst : Nat) (lanes : Mask) (ds : List Deferral) : List Deferral :=
  ds.flatMap fun d =>
    let part (o : Nat) (m : Mask) : List Deferral := if m == 0#64 then [] else [{ d with owner := o, mask := m }]
    if d.owner != src then [d] else part dst (d.mask &&& lanes) ++ part src (d.mask &&& ~~~lanes)

/-- Divides the lanes of entry `e` among groups (R144, R175): none where the deferral stack would overflow (R147). -/
def divide (x : Option PC) (v : Division) (e : Split) : List (Mask × PC) → Option Division
  | [] => some { v with done := e :: v.done }
  | [g] => some { v with done := ({ e with mask := g.1 }.sendTo g.2) :: v.done }
  | g :: g2 :: t =>
    let rest := (g2 :: t).foldl (fun m y => m ||| y.1) 0
    let rj := match x with
      | some a => if (e.rj.head?.map (·.addr)) == some a then e.rj else ({ addr := a, late := false, mask := e.mask } :: e.rj).take 4
      | none => e.rj
    let takenFirst := !e.lf.getLsbD 0
    let e := { e with rj := rj }
    let first := if takenFirst then (g.1, g.2) else (rest, g2.2)
    let second := if takenFirst then (rest, g2.2) else (g.1, g.2)
    let ds := handOver e.idx (v.free.headD 0) (Mask.quads second.1) v.defs
    if Mask.quads g.1 &&& Mask.quads rest == 0#64 && !v.free.isEmpty && ds.length ≤ 16 then
      let kept := { e with mask := first.1, lf := lfStep e.lf }.sendTo first.2
      let new := { e with idx := v.free.headD 0, mask := second.1, lf := lfStep (lfStep e.lf), cur := false,
                          born := v.born, state := .ready, blk := none, pc := second.2, handler := e.handler,
                          readyCount := 0, missCount := 0, waitmem := none, bar := none, clockHi := none, posted := none, sync := none,
                          held := [], inval := [] }
      let v := { v with free := v.free.drop 1, born := v.born + 1, defs := ds }
      if takenFirst then divide x { v with done := kept :: v.done } new (g2 :: t)
      else divide x { v with done := new :: v.done } kept (g2 :: t)
    else if takenFirst then
      let ds := (g2 :: t).map (deferOf e.idx e.h x)
      if v.defs.length + ds.length > 16 then none
      else some { v with defs := ds ++ v.defs,
                         done := ({ e with mask := g.1, lf := lfStep e.lf }.sendTo g.2) :: v.done }
    else if v.defs.length + 1 > 16 then none
    else divide x { v with defs := deferOf e.idx e.h x g :: v.defs }
      { e with mask := rest, lf := lfStep e.lf } (g2 :: t)

/-- Free split-table indices of the focus wave's sub-core, lowest first. -/
def freeEntries (s : State) : List Nat :=
  let used := (subWaves s).flatMap fun w => w.splits.map (·.idx)
  (List.range (if s.wave.isL then 8 else 32)).filter fun i => !used.contains i

/-- Sends the lanes of the split in focus to their targets: no divergence for one group, R144 and R175 for more, after
the results still outstanding (R54); none is CONVERGE, subcause DEFER (R147). -/
def branchTo (groups : List (Mask × PC)) (s : State) : Option State :=
  let gs := groups.filter fun g => g.1 != 0#64
  let w := s.wave
  match gs with
  | [] => some s
  | [g] => some (onCur (Split.sendTo g.2) s)
  | _ =>
    let x := w.cur.blk.bind (·.rejoin)
    match divide x { free := freeEntries s, born := s.nextId, done := [], defs := w.defs } w.cur.settled gs with
    | none => none
    | some v => some { s with nextId := v.born,
                              wave := { w with defs := v.defs }.withSplits w.cur.idx (v.done ++ w.others) }

/-- A branch's answer. -/
def branch (groups : List (Mask × PC)) (s0 s : State) : Eff :=
  match branchTo groups s with
  | some t => .jump t
  | none => .trap { cause := 3, sub := 3, mask := s0.wave.cur.mask }

/-! ### Taking an exception (R165, R415 to R418) -/

/-- The trap frame of the focus wave: its place in the stash and its virtual address (R417). -/
def frameKey (s : State) (w : Wave) : Nat :=
  match findTeam s w.team with
  | some t => stashKey t.die t.core (t.off + t.alloc + 4288 * w.waveId)
  | none => stashKey w.die w.core (4288 * w.waveId)
def frameVa (s : State) (w : Wave) : Nat :=
  match findTeam s w.team with
  | some t => t.win + t.alloc + 4288 * w.waveId
  | none => 4288 * w.waveId

/-- TRAPCAUSE of a trap of split-table entry `e` (Table 2.9). Where no split raised it, the Porter's (32) or the Courier's (33)
trap in a stop record, the manual gives its five bits of split ID no value (assumption 1). -/
def causeWord (t : Trap) (e : Nat) : W32 :=
  let id := if e < 32 then e else (Config.undefWord 0 38 e).toNat % 32
  BitVec.ofNat 32 (t.cause + 256 * t.sub + 65536 * id)

/-- A cause's routing entry (Table 14.9). -/
def routeOf (s : State) (c cause : Nat) : Nat := descN s c (0x100 + 16 * (cause - 1)) 16
/-- The handler address for the core's class. -/
def handlerPc (s : State) (w : Wave) (cause : Nat) : Nat :=
  let e := routeOf s w.ctx cause
  if w.isL then bitsOf e 112 64 else bitsOf e 48 0

/-- Is the cause one that may be resolved at all (R166, R415)? -/
def mayResolve (s : State) (w : Wave) (x : Split) (t : Trap) : Bool :=
  bitAt (routeOf s w.ctx t.cause) 63 && t.cause != 0x0D && t.cause != 0x0E && t.cause != 0x10 &&
  !(t.cause == 8 && t.sub == 2) && !x.h
/-- Does the trap go to the host fault queue (R422)? -/
def goesToHost (s : State) (w : Wave) (x : Split) (t : Trap) : Bool :=
  assist s w.ctx 0 && mayResolve s w x t && (t.cause == 8 || t.cause == 9 || t.cause == 0x0A || t.cause == 0x0F)
/-- Does the trap vector to a handler (R415)? -/
def goesToHandler (s : State) (w : Wave) (x : Split) (t : Trap) : Bool := mayResolve s w x t && handlerPc s w t.cause != 0

/-- Is a fixed-latency result of the split outstanding, or a long-latency write owed to a register that entry saves (R54,
R418 step 1), or does a copy own bytes of the frame (R127)? -/
def entryOwed (s : State) : Bool :=
  !s.wave.cur.written s.cycle || copyOwns s (frameKey s s.wave) 4288 ||
    (List.range 16).any fun n => emptyAny s (.v n) || emptyIn s 0 (.s n)

/-- Writes the registers of a frame (Table 14.10). -/
def writeFrame (s : State) (t : Trap) : State :=
  let b := frameKey s s.wave
  let put (off n x : Nat) (u : State) : State := memPut u (b + off) (bytesOf n x)
  let u := (List.range 16).foldl (fun u i => (Mask.lanes s.wave.cur.mask).foldl (fun u l =>
    put (0x100 * i + 4 * l) 4 (rdV s i l).toNat u) u) s
  let u := (List.range 16).foldl (fun u i => put (0x1000 + 4 * i) 4 (rdS s i).toNat u) u
  let u := put 0x1040 4 (causeWord t s.wave.cur.idx).toNat u
  let u := put 0x1048 8 t.pc.toNat u
  let u := put 0x1050 8 t.pc2.toNat u
  let u := put 0x1058 8 t.word0.toNat u
  let u := put 0x1060 8 t.word1.toNat u
  let u := put 0x1068 8 t.mask.toNat u
  let u := put 0x1070 8 t.addr.toNat u
  let u := put 0x1078 8 s.wave.cur.mask.toNat u
  [1, 2, 3].foldl (fun u i => put (0x1078 + 8 * i) 8 (rdK s i).toNat u) u

/-- Sets the trap registers (Table 2.9). -/
def setTrapRegs (t : Trap) (w : Wave) : Wave :=
  { w with tCause := causeWord t w.cur.idx, tPc := 0#15 ++ t.pc, tPc2 := t.pc2, tWord0 := t.word0, tWord1 := t.word1,
           tMask := t.mask, tAddr := t.addr }

/-- Handler entry of the split in focus (R418 steps 2 to 5); on BKPT every other split stops (R168). -/
def takeException (t : Trap) (s : State) : State :=
  let va := frameVa s s.wave
  let s := writeFrame (onFocus (setTrapRegs t) s) t
  let lanes := Mask.lanes s.wave.cur.mask
  let w := (List.range 16).foldl (fun w i => w.setVs i (lanes.map fun l => (l, 0))) s.wave
  let s := { s with wave := w }
  let s := (List.range 16).foldl (fun s i => wrS s i 0) s
  let s := wrS (wrS64 s 0 (BitVec.ofNat 64 va)) 2 s.wave.tCause
  let w := s.wave
  let c : Split :=
   { w.cur with
    h := true, state := .ready, tseq := 0, trap := none, hazards := [], nextIssue := max w.cur.nextIssue (s.cycle + 1),
    handler := some { frame := BitVec.ofNat 64 va, mask := w.cur.mask, blk := w.cur.blk, work := w.cur.work, hdr := t.hdr,
                      posted := w.cur.posted, pc := t.pc },
    work := .none, posted := none, pc := BitVec.ofNat 49 (handlerPc s w t.cause), blk := none }
  let others := if t.cause == 5 then w.others.map fun x => { x with stop := true } else w.others
  { s with wave := { w with cur := c, others := others } }

/-- A fatal trap raises the halt line; a fatal BKPT first stops every split of the wave, the one that raised it too: the stop
record lists it "with H or STOP as routed" (R165, R168). -/
def fatalTrap (t : Trap) (s : State) : State :=
  let s := if t.cause == 5 then onFocus (Wave.mapSplits fun x => { x with stop := true }) s else s
  raiseHalt s.wave.ctx .fatal (some (s.wave.uid, s.wave.cur.idx, t)) s

/-! ### Returning from an exception (R155, R166, R178, R184, R419) -/

/-- The place of code at an address of a wave, as its fetch reaches it. -/
def codeXl (s : State) (w : Wave) (pc : PC) : Xl :=
  xlate 4 s w.die w.ctx (pcBytes w.isL pc) { ex := true, sup := true, unit := some (w.core, w.sub) }
/-- The length of the instruction at an address, in the block given or else in memory; none while its translation waits for a
walk or for a copy that owns its bytes (R127), and 1 where the manual gives no length, since no instruction can be read there
(assumption 14). -/
def lengthAt (s : State) (w : Wave) (b : Option Blk) (pc : PC) : Option Nat :=
  match b.filter fun b => b.has w.isL pc with
  | some b => some (max 1 (b.at w.isL pc).2.2.2)
  | none =>
    match codeXl s w pc with
    | .ok k => if copyOwns s k 16 then none else some (max 1 (if w.isL then (decodeUnits (halvesOfBytes (cohRead s k 16))).2.2.2
                            else (decodeDWords (wordsOfBytes (cohRead s k 16))).2.2.2))
    | .miss => none
    | .fault _ _ _ => some 1

/-- Restores the trap frame's registers for the lanes it names (R419). -/
def restoreFrame (s : State) : State :=
  let b := frameKey s s.wave
  let get (off n : Nat) : Nat := cohNat s (b + off) n
  let lanes := Mask.lanes (BitVec.ofNat 64 (get 0x1078 8))
  let w := (List.range 16).foldl (fun w i => w.setVs i (lanes.map fun l => (l, BitVec.ofNat 32 (get (0x100 * i + 4 * l) 4)))) s.wave
  let s := { s with wave := w }
  let s := (List.range 16).foldl (fun s i => wrS s i (BitVec.ofNat 32 (get (0x1000 + 4 * i) 4))) s
  [1, 2, 3].foldl (fun s i => wrK s i (BitVec.ofNat 64 (get (0x1078 + 8 * i) 8))) s

/-- Is the RJOIN at an address the first instruction of its block: the rejoin point. -/
def rejoinPoint (isL : Bool) (b : Option Blk) (pc : PC) : Option PC :=
  b.bind fun b => if b.first isL == pc then some b.hdr else none

/-- The records left when the split passes rejoin point `x` as a latecomer (R150, R155). -/
def popRecord (x : PC) (rj : List RjRec) : List RjRec :=
  if rj.any fun r => r.addr == x then (rj.dropWhile fun r => r.addr != x).drop 1 else rj

/-- The end of HRET (R184, R419): registers from the frame, the address from TRAPPC as the handler left it, H cleared. A replay
re-issues what trapped, with an arrival that it shall not repeat (R190); `.skip`, or a TRAPPC that the handler has changed,
passes it. -/
def exceptionReturn (skip : Bool) (s : State) : State :=
  let s := restoreFrame s
  let s := if skip && (((s.wave.cur.handler.bind (·.blk)).filter fun b => b.has s.wave.isL (s.wave.tPc.extractLsb' 0 49)).isNone) then
      recallAt (codeXl s s.wave (s.wave.tPc.extractLsb' 0 49)) 16 s else s
  let w := s.wave
  let pc := w.tPc.extractLsb' 0 49
  let h := w.cur.handler.getD
    { frame := 0, mask := w.cur.mask, blk := none, work := .none, hdr := false, posted := none, pc := pc }
  let len := (lengthAt s w h.blk pc).getD 1
  let isRj := match h.blk with
    | some b => b.has w.isL pc && (match (b.at w.isL pc).1 with | .ok (.rjoin _) => true | _ => false)
    | none => false
  let rj := if skip && isRj then
      (match rejoinPoint w.isL h.blk pc with | some x => popRecord x w.cur.rj | none => w.cur.rj) else w.cur.rj
  let pc' := if skip then pc + BitVec.ofNat 49 len else pc
  let bkpt := (w.tCause.extractLsb' 0 8) == 5#8
  let c : Split :=
    { w.cur with
      h := false, state := .ready, handler := none, hazards := [], rj := rj, pc := pc', sync := if skip then none else w.cur.sync,
      posted := if skip || h.pc != pc then none else h.posted,
      blk := h.blk.filter fun b => b.has w.isL pc', skip := !skip && bkpt && w.tCause.extractLsb' 8 8 == 2#8,
      nextIssue := max w.cur.nextIssue (s.cycle + 1) }
  let others := if bkpt then w.others.map fun x => { x with stop := false } else w.others
  { s with wave := { w with cur := if bkpt then { c with stop := false } else c, others := others } }

end Sys2Proof.Machine
end

