-- ==== Sys2Proof/Machine/Operands.lean ====
section
/-! DEFINITION. The operand forms: reading a source field as a value of a TYPE (R37, R38, R69, R70, R208, R209), writing
a destination per lane or once (R40, R42, R70, R209). -/
namespace Sys2Proof.Machine
open Sys2Proof

/-- Is a TYPE one of i8, i16, i32, i64? -/
def tySigned (ty : BitVec 4) : Bool := ty.toNat < 4
/-- Is a TYPE floating point (Table 2.6)? -/
def tyFloat (ty : BitVec 4) : Bool := ty.toNat ≥ 8

/-- An inline integer as bits of a TYPE (R38). -/
def immBits (ty : BitVec 4) (n : BitVec 7) : Nat :=
  if ty == 15#4 then toDs8 (.ofInt (immVal n))
  else if tyFloat ty then roundF (fmtOfTy ty.toNat) 0 (.ofInt (immVal n))
  else wrapN (immVal n) (tyBits ty)

/-- The bits of a source operand of a TYPE, in lane `l`: a scalar source is broadcast, a pair gives 64 bits, and a narrow
TYPE reads the low bits (R37, R41, R70). -/
def srcBits (s : State) (ty : BitVec 4) (o : Operand) (l : Nat) : Nat :=
  match o with
  | .v n => (if tyRegs ty == 2 then (rdV64 s n.toNat l).toNat else (rdV s n.toNat l).toNat) % 2 ^ tyBits ty
  | .s n => (if tyRegs ty == 2 then (rdS64 s n.toNat).toNat else (rdS s n.toNat).toNat) % 2 ^ tyBits ty
  | .imm n => immBits ty n
  | _ => 0

/-- A 32-bit operand whatever TYPE says, read as n32 (R207). -/
def src32 (s : State) (o : Operand) (l : Nat) : Nat := srcBits s 6 o l
/-- A 64-bit operand (R207). -/
def src64 (s : State) (o : Operand) (l : Nat) : Nat := srcBits s 7 o l

/-- Bits of a TYPE as an integer (R209). -/
def valTy (ty : BitVec 4) (x : Nat) : Int := if tySigned ty then sextN x (tyBits ty) else ((x % 2 ^ tyBits ty : Nat) : Int)
/-- A source operand as an integer of its TYPE. -/
def srcInt (s : State) (ty : BitVec 4) (o : Operand) (l : Nat) : Int := valTy ty (srcBits s ty o l)

/-- wrap(x, t) of R209, as bits. -/
def wrapTy (ty : BitVec 4) (x : Int) : Nat := wrapN x (tyBits ty)
/-- The least and greatest value of a TYPE. -/
def minTy (ty : BitVec 4) : Int := if tySigned ty then -(2 ^ (tyBits ty - 1) : Nat) else 0
def maxTy (ty : BitVec 4) : Int := if tySigned ty then (2 ^ (tyBits ty - 1) : Nat) - 1 else (2 ^ tyBits ty : Nat) - 1
/-- sat(x, t) of R209, as bits. -/
def satTy (ty : BitVec 4) (x : Int) : Nat := wrapTy ty (max (minTy ty) (min (maxTy ty) x))

/-- The registers a result of a TYPE fills: a narrow result is extended into its register, a 64-bit one takes a pair (R70). For
the i8 and i16 of FTOI the model takes R70, which R234 and R209 name, and not R234's "upper register bits cleared" (assumption
16). -/
def resRegs (ty : BitVec 4) (x : Nat) : List W32 :=
  if tyRegs ty == 2 then [BitVec.ofNat 32 x, BitVec.ofNat 32 (x / 2 ^ 32)]
  else if tySigned ty then [BitVec.ofNat 32 (wrapN (sextN x (tyBits ty)) 32)]
  else [BitVec.ofNat 32 (x % 2 ^ tyBits ty)]

/-- Writes registers `d`, `d` + 1, … of a lane. -/
def Wave.setGroup (w : Wave) (d l : Nat) : List W32 → Wave
  | [] => w
  | x :: t => Wave.setGroup (w.setV d l x) (d + 1) l t
/-- Writes registers from `d` on of several lanes, each with the values `g` gives it. -/
def Wave.setLanes (w : Wave) (d : Nat) (g : Nat → List W32) (ls : List Nat) : Wave :=
  ls.foldl (fun w l => w.setGroup d l (g l)) w
/-- Writes s-registers from `d` on. -/
def wrSs (s : State) (d : Nat) : List W32 → State
  | [] => s
  | x :: t => wrSs (wrS s d x) (d + 1) t

/-- The active lanes of an R-format instruction (R42). -/
def actOf (s : State) (f : RF) : Mask := activeOf s f.k f.kn

/-- A result per active lane, or once for the scalar form (R209): `g` gives the registers' values for a lane. -/
def wrDst (f : RF) (g : Nat → List W32) (s : State) : State :=
  if f.sc then wrSs s f.d.toNat (g 0)
  else { s with wave := s.wave.setLanes f.d.toNat g (Mask.lanes (actOf s f)) }

/-- A result of the instruction's TYPE per active lane, or once. -/
def wrTyped (f : RF) (g : Nat → Nat) (s : State) : State := wrDst f (fun l => resRegs f.ty (g l)) s

/-- Source values of a floating-point TYPE, flushed as MODE says (R80 to R82). -/
def srcX (s : State) (ty : BitVec 4) (o : Operand) (l : Nat) : XVal :=
  srcF s.wave.mode.toNat ty.toNat (srcBits s ty o l)

end Sys2Proof.Machine
end

