-- ==== Sys2Proof/Machine/Flags.lean ====
section
/-! DEFINITION. What an instruction computes into mask bits: the conditions of compares (R223, R240), carries and borrows
(R213), and the merging of lanes' bits into a mask register (R209, R210). -/
namespace Sys2Proof.Machine
open Sys2Proof

/-- A mask register with the bits of some lanes replaced. -/
def mergeMask (old lanes new : Mask) : Mask := (old &&& ~~~lanes) ||| (new &&& lanes)
/-- The mask of the lanes among `ls` that `p` holds of. -/
def maskWhere (ls : List Nat) (p : Nat → Bool) : Mask := Mask.ofLanes (ls.filter p)
/-- Writes a bit per active lane into a mask register. -/
def wrMaskBits (s : State) (d : Nat) (act : Mask) (p : Nat → Bool) : State :=
  wrK s d (mergeMask (rdK s d) act (maskWhere (Mask.lanes act) p))

/-- cond of R223. -/
def icmpCond (cc : Nat) (x y : Int) : Bool :=
  match cc with
  | 0 => x == y
  | 1 => x != y
  | 2 => x < y
  | 3 => x ≤ y
  | 4 => x > y
  | _ => x ≥ y

/-- A compare's bit combined with the old one under MOD (R223): set, and, or. -/
def combine (mod : Nat) (old c : Bool) : Bool :=
  match mod with
  | 0 => c
  | 1 => old && c
  | _ => old || c

/-- A compare's result: mask bits of the active lanes, or 1 or 0 in an s-register (R223). -/
def wrCompare (f : RF) (p : Nat → Bool) (s : State) : State :=
  if f.sc then wrS s f.d.toNat (if p 0 then 1 else 0)
  else wrMaskBits s f.d.toNat (actOf s f) fun l => combine f.md.toNat ((rdK s f.d.toNat).has l) (p l)

/-- The sum with carry, or difference with borrow, of R213: the w-bit result and the carry or borrow out. -/
def addCarry (sub : Bool) (w x y : Nat) (cin : Bool) : Nat × Bool :=
  let c : Int := if cin then 1 else 0
  let r : Int := if sub then (x : Int) - y - c else (x : Int) + y + c
  (wrapN r w, if sub then r < 0 else r ≥ (2 ^ w : Nat))

end Sys2Proof.Machine
end

