-- ==== Sys2Proof/Machine/Sdb.lean ====
section
/-! DEFINITION. Self-describing blocks and the quantiser (R85 to R91), lane trees (R94 to R96) and exact-sum cells
(R97 to R100). -/
namespace Sys2Proof

/-- The element count of a FMT, none for reserved codes (Table 3.4). -/
def sdbCount (fmt : Nat) : Option Nat :=
  match fmt with
  | 1 => some 62 | 2 => some 62 | 3 => some 62 | 4 => some 62 | 5 => some 124 | 6 => some 124 | 7 => some 31
  | 8 => some 62 | _ => none

/-- The target exponent T (Table 3.4). -/
def sdbTarget (fmt : Nat) : Int :=
  match fmt with
  | 1 => 6 | 2 => 8 | 3 => 15 | 5 => 2 | 6 => 2 | _ => 0

/-- The floating-point format of a FMT's elements, for the formats that have one. -/
def sdbFmt (fmt : Nat) : Option Fmt :=
  match fmt with
  | 2 => some e4m3 | 3 => some e5m2 | 6 => some e2m1 | 7 => some bf16 | _ => none

/-- The bits of element `i` of a block (R86). -/
def sdbElem (fmt : Nat) (block : List Byte) (i : Nat) : Nat :=
  if fmt == 5 || fmt == 6 then bitsOf (block.getD (2 + i / 2) 0).toNat (4 * (i % 2) + 3) (4 * (i % 2))
  else if fmt == 7 then (block.getD (2 + 2 * i) 0).toNat + 256 * (block.getD (3 + 2 * i) 0).toNat
  else (block.getD (2 + i) 0).toNat

/-- Is the encoding a subnormal of its format? -/
def isSubnormal (f : Fmt) (x : Nat) : Bool :=
  let mag := x % 2 ^ (f.bits - 1)
  mag != 0 && mag < 2 ^ f.frac

/-- The flush of an element of a block (R82; R81 for bf16): a subnormal whose scaled magnitude is below 2^-126, or any
subnormal bf16, becomes a zero of its sign. -/
def flushElem (ftz16 : Bool) (fmt scale : Nat) (x : Nat) : Nat :=
  match sdbFmt fmt with
  | none => x
  | some f =>
    let small := match decodeF f x with
      | .fin _ m e => (XVal.fin false m (e + (scale : Int) - 512)).cmp (.fin false 1 (-126)) == .lt
      | _ => false
    if ftz16 && isSubnormal f x && (fmt == 7 || small) then f.signBit (bitAt x (f.bits - 1)) else x

/-- A decoded block (R87): its element count (none for FMT 8 and reserved codes, which have none of their own), whether
its FMT is reserved, whether it is a NaN block, and the value of element `i`. -/
structure SdbBlock where
  fmt : Nat
  scale : Nat
  count : Option Nat
  reserved : Bool
  nan : Bool
deriving DecidableEq, Repr, Inhabited

/-- The header of a block (Table 3.3). -/
def sdbHeader (block : List Byte) : SdbBlock :=
  let h := (block.getD 0 0).toNat + 256 * (block.getD 1 0).toNat
  let fmt := h / 1024
  let scale := h % 1024
  { fmt := fmt, scale := scale, count := if fmt == 8 then none else sdbCount fmt, reserved := (sdbCount fmt).isNone,
    nan := (sdbCount fmt).isSome && scale == 0x3FF }

/-- The value of element `i` (R87). -/
def sdbValue (ftz16 : Bool) (h : SdbBlock) (block : List Byte) (i : Nat) : XVal :=
  if h.reserved then .zero
  else if h.nan then .nan
  else if h.fmt == 8 then .zero
  else
    let x := flushElem ftz16 h.fmt h.scale (sdbElem h.fmt block i)
    let v := match h.fmt with
      | 1 => XVal.ofInt (sextN x 8)
      | 5 => XVal.ofInt (sextN x 4)
      | 4 => decodeDs8 x
      | _ => match sdbFmt h.fmt with
        | some f => decodeF f x
        | none => .zero
    v.scale ((h.scale : Int) - 512)

/-- One element of an attempt at scale S (R89): its bits and whether it overflows, with the bits R90 saturates it to. -/
def quantElem (ftz16 : Bool) (fmt scale : Nat) (x : XVal) : Nat × Bool :=
  let q := x.scale (512 - (scale : Int))
  let ints (w : Nat) : Nat × Bool :=
    let r := toIntR 0 q
    let lo : Int := -(2 ^ (w - 1) : Nat)
    let hi : Int := (2 ^ (w - 1) : Nat) - 1
    if r < lo then (wrapN lo w, true) else if r > hi then (wrapN hi w, true) else (wrapN r w, false)
  match fmt with
  | 1 => ints 8
  | 5 => ints 4
  | 4 => if q.absLe (.ofInt 2) then (toDs8 q, false) else (if q.neg? then 0x88 else 0x00, true)
  | _ => match sdbFmt fmt with
    | none => (0, false)
    | some f => match q with
      | .fin n m e =>
        if m != 0 && roundMag f 0 n m e > f.maxFin then (f.signBit n + f.maxFin, true)
        else (flushElem ftz16 fmt scale (roundF f 0 q), false)
      | _ => (0, false)

/-- Packs element bits into a payload (R86). -/
def packPairs : List Nat → List Byte
  | a :: b :: t => BitVec.ofNat 8 (a + 16 * b) :: packPairs t
  | [a] => [BitVec.ofNat 8 a]
  | [] => []
def sdbPayload (fmt : Nat) (xs : List Nat) : List Byte :=
  if fmt == 5 || fmt == 6 then packPairs xs
  else if fmt == 7 then xs.flatMap fun x => bytesOf 2 x
  else xs.map fun x => BitVec.ofNat 8 x

/-- A block of 64 bytes from a header and a payload, zero after the payload. -/
def sdbMake (fmt scale : Nat) (payload : List Byte) : List Byte :=
  ((bytesOf 2 (fmt * 1024 + scale) ++ payload) ++ List.replicate 64 0).take 64

/-- The largest magnitude of a list, as an exponent: floor(log2 max |x|); none when every element is zero. -/
def maxExp (xs : List XVal) : Option Int :=
  xs.foldl (fun acc x => match x with
    | .fin _ m e => if m == 0 then acc else
      let k := (Nat.log2 m : Int) + e
      match acc with
      | none => some k
      | some a => some (max a k)
    | _ => acc) none

/-- The quantiser (R88 to R91): the block and whether it saturated. `s0` is the supplied start scale. -/
def quantise (ftz16 : Bool) (fmt : Nat) (s0 : Option Nat) (xs : List XVal) : List Byte × Bool :=
  if xs.any fun x => match x with | .fin _ _ _ => false | _ => true then (sdbMake fmt 0x3FF [], false)
  else
    match maxExp xs with
    | none => (sdbMake 8 0 [], false)
    | some k =>
      let s : Nat := s0.getD (512 + k - sdbTarget fmt).toNat
      let att (s : Nat) := xs.map (quantElem ftz16 fmt s)
      let bad (a : List (Nat × Bool)) := a.any (·.2)
      let mk (s : Nat) (a : List (Nat × Bool)) := sdbMake fmt s (sdbPayload fmt (a.map (·.1)))
      let a0 := att s
      if !bad a0 then (mk s a0, false)
      else
        let a1 := att (s + 1)
        if !bad a1 then (mk (s + 1) a1, false)
        else let a2 := att (s + 2); (mk (s + 2) a2, bad a2)

/-! ### Lane trees (R94 to R96) -/

/-- comb of R94. -/
def combT {α : Type} (op : α → α → α) : Option α → Option α → Option α
  | some a, some b => some (op a b)
  | some a, none => some a
  | none, b => b

/-- One level of the tree: neighbours combined. -/
def treeLevel {α : Type} (op : α → α → α) : List (Option α) → List (Option α)
  | a :: b :: t => combT op a b :: treeLevel op t
  | t => t

/-- The reduction of 64 positions in the fixed tree (R94). -/
def treeReduce {α : Type} (op : α → α → α) (xs : List (Option α)) : Option α :=
  ((List.range 6).foldl (fun a _ => treeLevel op a) xs).headD none

/-- The segment of lane `l` under start mask `m`: its first lane and the first lane after it (R95, R204). -/
def segOf (m : Mask) (l : Nat) : Nat × Nat :=
  let starts := fun i => i == 0 || Mask.has m i
  let lo := ((List.range (l + 1)).filter starts).getLastD 0
  let hi := (((List.range 64).filter fun i => i > l && starts i)).headD 64
  (lo, hi)

/-! ### Exact-sum cells (R97 to R100) -/

/-- The 480-bit N of a cell. -/
def cellN (c : List Byte) : Int := sextN (natOfBytes (c.take 60)) 480
/-- The flag word of a cell. -/
def cellFlags (c : List Byte) : Nat := natOfBytes ((c.drop 60).take 4)
/-- A cell from N and its flags. -/
def cellMake (n : Int) (flags : Nat) : List Byte := bytesOf 60 (wrapN n 480) ++ bytesOf 4 flags

/-- One source value added to a cell (R98). -/
def cellAdd (c : List Byte) (x : XVal) : List Byte :=
  let fl := cellFlags c
  match x with
  | .nan => cellMake (cellN c) (fl ||| 1)
  | .inf n => cellMake (cellN c) (fl ||| if n then 4 else 2)
  | .fin n m e =>
    let d := XVal.signedAt (-149) n m e
    let s := cellN c + d
    let out := s < -(2 ^ 479 : Nat) || s ≥ (2 ^ 479 : Nat)
    cellMake s (if out then fl ||| 8 else fl)

/-- XRND's result in a format (R100). -/
def cellRound (f : Fmt) (c : List Byte) : Nat :=
  let fl := cellFlags c
  if bitAt fl 0 || bitAt fl 3 || (bitAt fl 1 && bitAt fl 2) then f.nan.getD 0
  else if bitAt fl 1 then f.infBits
  else if bitAt fl 2 then f.signBit true + f.infBits
  else
    let n := cellN c
    if n == 0 then 0 else roundF f 0 (.fin (n < 0) n.natAbs (-149))

end Sys2Proof
end

