-- ==== Sys2Proof/Machine/Lane.lean ====
section
/-! DEFINITION. Lane instructions, opcodes 0x20 to 0x2E (R195 to R205), with the lane trees of R94 to R96. -/
namespace Sys2Proof.Machine
open Sys2Proof

/-! ### Masks (R197 to R199) -/

/-- All ones or all zeros. -/
def allOr (b : Bool) : Mask := if b then ~~~0#64 else 0
/-- VOTE (R197). -/
def voteMask (f : RF) (s : State) : Mask :=
  let ls := Mask.lanes (actOf s f)
  let a (l : Nat) : Nat := srcBits s f.ty f.a l
  match f.md.toNat with
  | 0 => maskWhere ls fun l => a l != 0
  | 1 => allOr (ls.any fun l => a l != 0)
  | 2 => allOr (ls.all fun l => a l != 0)
  | _ => match ls with
    | [] => allOr true
    | x :: t => allOr (t.all fun l => a l == a x)
def voteR (f : RF) (s : State) : State := if actOf s f == 0#64 then s else wrK s f.d.toNat (voteMask f s)

/-- A mask operand. -/
def srcMask (s : State) (o : Operand) : Mask :=
  match o with
  | .mask k => rdK s k.toNat
  | _ => 0
/-- KOP (R198). -/
def kopMask (f : RF) (s : State) : Mask :=
  let a := srcMask s f.a
  let b := srcMask s f.b
  match f.ty.toNat with
  | 0 => a &&& b
  | 1 => a ||| b
  | 2 => a ^^^ b
  | 3 => a &&& ~~~b
  | 4 => ~~~a
  | 5 => a
  | 6 => BitVec.ofNat 64 (src64 s f.a 0)
  | _ => s.wave.all
def kopR (f : RF) (s : State) : State := wrK s f.d.toNat (kopMask f s)

/-- The mask KPOPC and KFFS count (R199). -/
def countMask (f : RF) (s : State) : Mask := srcMask s f.a &&& srcMask s f.b &&& s.wave.all
/-- KPOPC (R199). -/
def kpopcLane (f : RF) (s : State) (l : Nat) : Nat :=
  let ls := Mask.lanes (countMask f s)
  match f.md.toNat with
  | 0 => ls.length
  | 1 => (ls.filter fun x => x < l).length
  | _ => (ls.filter fun x => x ≤ l).length
def kpopcR (f : RF) (s : State) : State := wrDst f (fun l => resRegs 6 (kpopcLane f s l)) s
/-- KFFS (R199). -/
def kffsVal (f : RF) (s : State) : Nat :=
  let ls := Mask.lanes (countMask f s)
  ((if f.md == 0#2 then ls.head? else ls.getLast?).getD 0xFFFFFFFF)
def kffsR (f : RF) (s : State) : State := wrDst f (fun _ => resRegs 6 (kffsVal f s)) s

/-! ### Moves between lanes (R196, R200 to R203) -/

/-- RDFIRST (R200): the scalar form takes MASK as its active set. -/
def rdfirstR (f : RF) (s : State) : State :=
  let l := (Mask.first (if f.sc then maskOf s else actOf s f)).getD 0
  wrTyped f (fun _ => srcBits s f.ty f.a l) s

/-- The source lane of SHFL (R201); none when it lies outside the lane numbers. -/
def shflFrom (md : BitVec 2) (l b : Nat) : Option Nat :=
  match md.toNat with
  | 0 => some b
  | 1 => if b ≤ l then some (l - b) else none
  | 2 => some (l + b)
  | _ => some (l ^^^ b)
/-- SHFL (R201): an absent source lane gives the lane's own A (R196). -/
def shflR (f : RF) (s : State) : State :=
  let act := actOf s f
  wrTyped f (fun l =>
    match shflFrom f.md l (src32 s f.b l % 64) with
    | some j => srcBits s f.ty f.a (if j < 64 && act.has j then j else l)
    | none => srcBits s f.ty f.a l) s

/-- PERM (R202): an exited source lane gives an undefined value. -/
def permR (f : RF) (s : State) : State :=
  wrTyped f (fun l =>
    let j := 4 * (l / 4) + bitsOf (src32 s f.b l) (2 * (l % 4) + 1) (2 * (l % 4))
    if s.wave.exited.has j then
      (Config.undefWord s.freeCtr j 0).toNat + 2 ^ 32 * (Config.undefWord s.freeCtr j 1).toNat
    else srcBits s f.ty f.a j) s

/-- Writes the lanes paired with the lanes whose A they take. -/
def moveLanes (f : RF) (s : State) (ps : List (Nat × Nat)) : State :=
  { s with wave := ps.foldl (fun w p => w.setGroup f.d.toNat p.1 (resRegs f.ty (srcBits s f.ty f.a p.2))) s.wave }
/-- The active lanes and the selected ones among them (R203). -/
def actSel (f : RF) (s : State) : List Nat × List Nat :=
  let act := Mask.lanes (actOf s f)
  (act, act.filter fun l => (srcMask s f.b).has l)
/-- COMPRESS and EXPAND (R203). -/
def compressR (f : RF) (s : State) : State := let p := actSel f s; moveLanes f s (p.1.zip p.2)
def expandR (f : RF) (s : State) : State := let p := actSel f s; moveLanes f s (p.2.zip p.1)

/-! ### Lane trees (R94 to R96, R204) -/

/-- The combination of two values of a TYPE (R94, R204). -/
def treeOp (mode : Nat) (ty : BitVec 4) (op rnd : Nat) (a b : Nat) : Nat :=
  if tyFloat ty then
    let t := ty.toNat
    let fl (x : Nat) : Nat := flushF (ftzOn mode t) (fmtOfTy t) x
    match op with
    | 0 => resF mode t rnd (XVal.add (rnd == 2) (srcF mode t a) (srcF mode t b))
    | 1 => resF mode t rnd (XVal.mul (srcF mode t a) (srcF mode t b))
    | 2 => minMaxF (fmtOfTy t) false false (fl a) (fl b)
    | _ => minMaxF (fmtOfTy t) true false (fl a) (fl b)
  else match op with
    | 0 => wrapTy ty (valTy ty a + valTy ty b)
    | 1 => wrapTy ty (valTy ty a * valTy ty b)
    | 2 => wrapTy ty (min (valTy ty a) (valTy ty b))
    | 3 => wrapTy ty (max (valTy ty a) (valTy ty b))
    | 4 => a &&& b
    | 5 => a ||| b
    | _ => a ^^^ b

/-- The identity of an operation (R96). -/
def treeId (ty : BitVec 4) (op : Nat) : Nat :=
  if tyFloat ty then
    let f := fmtOfTy ty.toNat
    match op with
    | 0 => 0
    | 1 => roundF f 0 (.ofInt 1)
    | 2 => f.infBits
    | _ => f.signBit true + f.infBits
  else match op with
    | 1 => 1
    | 2 => wrapTy ty (maxTy ty)
    | 3 => wrapTy ty (minTy ty)
    | 4 => 2 ^ tyBits ty - 1
    | _ => 0

/-- The reduction over the positions that `p` keeps among the active lanes (R94 to R96). -/
def treeOver (f : RF) (s : State) (p : Nat → Bool) : Nat :=
  let act := actOf s f
  let op := bitsOf (ctlOf f.c) 3 1
  let xs := (List.range 64).map fun l => if act.has l && p l then some (srcBits s f.ty f.a l) else none
  (treeReduce (treeOp s.wave.mode.toNat f.ty op f.md.toNat) xs).getD (treeId f.ty op)

/-- Does a scan's lane `l` include position `p` (R95)? Bit X of the control field makes it exclusive. -/
def scanKeeps (f : RF) (l p : Nat) : Bool := if bitAt (ctlOf f.c) 4 then p < l else p ≤ l
/-- Is position `p` in lane `l`'s segment (R204)? -/
def inSegment (f : RF) (s : State) (l p : Nat) : Bool :=
  let g := segOf (srcMask s f.b) l
  g.1 ≤ p && p < g.2

/-- REDUCE, SCAN, SEGRED and SEGSCAN (R204). -/
def reduceR (f : RF) (s : State) : State := let r := treeOver f s fun _ => true; wrTyped f (fun _ => r) s
def scanR (f : RF) (s : State) : State := wrTyped f (fun l => treeOver f s (scanKeeps f l)) s
def segredR (f : RF) (s : State) : State := wrTyped f (fun l => treeOver f s (inSegment f s l)) s
def segscanR (f : RF) (s : State) : State :=
  wrTyped f (fun l => treeOver f s fun p => inSegment f s l p && scanKeeps f l p) s

/-! ### Run-time register indices (R205) -/

/-- Is the index of a lane out of range (R205)? -/
def badIndex (f : RF) (s : State) (l : Nat) : Bool :=
  let i := src32 s f.a l
  i + tyRegs f.ty > s.wave.regs || (s.wave.isL && i + tyRegs f.ty > 128) || (tyRegs f.ty == 2 && i % 2 == 1)
/-- The lanes whose index is out of range. -/
def badIndexes (f : RF) (s : State) : Mask := maskWhere (Mask.lanes (actOf s f)) (badIndex f s)
/-- Does an indexed register await a long-latency producer? -/
def indexEmpty (f : RF) (s : State) : Bool :=
  (Mask.lanes (actOf s f)).any fun l => (List.range (tyRegs f.ty)).any fun j => emptyIn s (l / 4) (.v (src32 s f.a l + j))

/-- VRDX (R205). -/
def vrdxR (f : RF) (s : State) : Eff :=
  if badIndexes f s != 0#64 then .trap { cause := 1, sub := 2, mask := badIndexes f s }
  else if indexEmpty f s then .hold []
  else .next (wrDst f (fun l => (List.range (tyRegs f.ty)).map fun j => rdV s (src32 s f.a l + j) l) s)

/-- VWRX (R205): the registers written become readable after its latency (R51, R206). -/
def vwrxR (f : RF) (s : State) : Eff :=
  if badIndexes f s != 0#64 then .trap { cause := 1, sub := 2, mask := badIndexes f s }
  else if indexEmpty f s then .hold []
  else
    let ls := Mask.lanes (actOf s f)
    let t := { s with wave := ls.foldl (fun w l => w.setGroup (src32 s f.a l) l (resRegs f.ty (srcBits s f.ty f.b l))) s.wave }
    .next (ls.foldl (fun t l => addHazards (latencyOf (.vwrx f)) (Mask.one l)
      ((List.range (tyRegs f.ty)).map fun j => .v (src32 s f.a l + j)) t) t)

/-! ### The arms -/

def execVote (f : RF) (s : State) : Out := issue (.vote f) s fun s => .next (voteR f s)
def execKop (f : RF) (s : State) : Out := issue (.kop f) s fun s => .next (kopR f s)
def execKpopc (f : RF) (s : State) : Out := issue (.kpopc f) s fun s => .next (kpopcR f s)
def execKffs (f : RF) (s : State) : Out := issue (.kffs f) s fun s => .next (kffsR f s)
def execRdfirst (f : RF) (s : State) : Out := issue (.rdfirst f) s fun s => .next (rdfirstR f s)
def execShfl (f : RF) (s : State) : Out := issue (.shfl f) s fun s => .next (shflR f s)
def execPerm (f : RF) (s : State) : Out := issue (.perm f) s fun s => .next (permR f s)
def execCompress (f : RF) (s : State) : Out := issue (.compress f) s fun s => .next (compressR f s)
def execExpand (f : RF) (s : State) : Out := issue (.expand f) s fun s => .next (expandR f s)
def execReduce (f : RF) (s : State) : Out := issue (.reduce f) s fun s => .next (reduceR f s)
def execScan (f : RF) (s : State) : Out := issue (.scan f) s fun s => .next (scanR f s)
def execSegred (f : RF) (s : State) : Out := issue (.segred f) s fun s => .next (segredR f s)
def execSegscan (f : RF) (s : State) : Out := issue (.segscan f) s fun s => .next (segscanR f s)
def execVrdx (f : RF) (s : State) : Out := issue (.vrdx f) s (vrdxR f)
def execVwrx (f : RF) (s : State) : Out := issue (.vwrx f) s (vwrxR f)

end Sys2Proof.Machine
end

