-- ==== Sys2Proof/Machine/Platform.lean ====
section
/-! DEFINITION. What the die-level engines and the Innkeeper share: the error log and its messages (R487, R495, R496), and
engines' own reads and writes of the context's memory. -/
namespace Sys2Proof.Machine
open Sys2Proof

/-- Changes the platform. -/
def onPlat (f : Platform → Platform) (s : State) : State := { s with plat := f s.plat }

/-- `n` bytes of a vector's MSI-X table entry: address at 0, data at 8, vector control at 12 (R487, assumption 44). -/
def msixAt (p : Platform) (v o n : Nat) : Nat :=
  natOfBytes ((List.range n).map fun (i : Nat) => Store.get 0 p.bar0 (0x80000 + 16 * v + o + i))
/-- Is a vector masked? -/
def msixMasked (p : Platform) (v : Nat) : Bool := !bitAt (msixAt p v 12 1) 0
/-- A vector's message: sent, or pending while the vector is masked (R487). -/
def postMsix (v : Nat) (p : Platform) : Platform :=
  if msixMasked p v then { p with pba := if p.pba.contains v then p.pba else v :: p.pba }
  else { p with msgs := (msixAt p v 0 8, msixAt p v 8 4) :: p.msgs }

/-- A message is a release at SYSTEM scope (R487): it leaves once no write that an engine owes is left. -/
def releaseMsix (v : Nat) (s : State) : State :=
  if s.owed.isEmpty then onPlat (postMsix v) s else onPlat (fun p => { p with due := p.due ++ [v] }) s
/-- The messages that waited leave, in their order, when nothing is owed any more. -/
def flushMsix (s : State) : State :=
  if s.owed.isEmpty then onPlat (fun p => p.due.foldl (fun p v => postMsix v p) { p with due := [] }) s else s

/-- Adds an entry to the error log, a ring of 4,096 (R495), and sends vector 2. -/
def logEvent (kind die unit ctx addr : Nat) (s : State) : State :=
  let e : LogEntry := { clock := s.clock, kind := kind, die := die, unit := unit, ctx := ctx, addr := addr }
  releaseMsix 2 (onPlat (fun p => { p with log := (p.log ++ [e]).drop (p.log.length + 1 - 4096), logNext := p.logNext + 1 }) s)

/-- Sends an MSI-X message (R487); a vector of 2,048 or more is logged instead, under a kind the manual does not state
(assumption 1). -/
def sendMsix (v : Nat) (s : State) : State :=
  if v < 2048 then releaseMsix v s
  else logEvent (Config.undefWord s.freeCtr 9 v).toNat 0 0 0 v s

/-- A counter raised by one (R496). -/
def satInc (x : Nat) : Nat := satAdd 1 x

/-! ### Uncorrectable data and lost routes (R262, R422, R490) -/

/-- The trap of an uncorrectable error (Table 14.4). -/
def eccTrap (sub : Nat) (mask : Mask) (va : Nat) (pc : PC) : Trap :=
  { cause := 0x0E, sub := sub, mask := mask, addr := addrW va, pc := pc, pc2 := 0, word0 := 0, word1 := 0, hdr := false }
/-- An uncorrectable-error event is posted to the host and its context pauses (R20, R422). -/
def postError (die ctx uid : Nat) (t : Trap) (s : State) : State :=
  if !assist s ctx 3 then s
  else
    let x : Posted := { die := die, ctx := ctx, uid := uid, entry := 0, idx := none, written := false, trap := t, err := true }
    onCtx ctx (fun c => { c with paused := true }) { s with posted := s.posted ++ [x] }
/-- A wave that is resident or lies in a context's image. -/
def anyWave (uid : Nat) (s : State) : Option Wave :=
  (findWave uid s).orElse fun _ => s.images.findSome? fun i => i.waves.find? fun w => w.uid == uid
/-- The entry of a wave whose split a trap names: the first that holds one of its lanes. -/
def entryFor (w : Wave) (m : Mask) : Nat := ((w.splits.find? fun x => x.mask &&& m != 0#64).map (·.idx)).getD w.cur.idx
/-- A fatal trap of a wave's work (R87, R262, R490): the context's halt line rises; where the context does not run, it rises
when it runs again (assumption 20). -/
def raiseFatal (ctx uid : Nat) (t : Trap) (s : State) : State :=
  let w := anyWave uid s
  let t := { t with pc2 := match w with | some w => trapPc2 s w t.pc | none => 0 }
  if (findCtx s ctx).any fun x => x.state == .running then
    raiseHalt ctx .fatal (some (uid, (w.map fun w => entryFor w t.mask).getD 0, t)) s
  else onCtx ctx (fun x => { x with late := x.late ++ [(uid, t)] }) s
/-- The halt line rises for the first fatal trap that came while the context did not run. -/
def raiseLate (ctx : Nat) (s : State) : State :=
  match (findCtx s ctx).bind fun x => x.late.head? with
  | some (uid, t) => raiseFatal ctx uid t (onCtx ctx (fun x => { x with late := x.late.drop 1 }) s)
  | none => s
/-- An access of a unit to a place in a peer that cannot be reached is counted against a link that led there and logged, or fatal
under MODE.STRICT (R490), and posted under ASSIST.ERRH (R422). -/
def routeLost (die ctx uid : Nat) (strict : Bool) (mask : Mask) (va : Nat) (pc : PC) (key : Nat) (s : State) : State :=
  if !unreachable s key then s
  else
    let t := eccTrap 2 mask va pc
    if strict then postError die ctx uid t (raiseFatal ctx uid t s)
    else
      let ls := s.plat.links.filter fun l => l.reaches s.plat.fabric (peerOf key)
      let ls := if ls.isEmpty then s.plat.links else ls
      let l := ((ls[choose s 16 ls.length]?).map (·.id)).getD 0
      logEvent 3 die l ctx key (onPlat (fun x => { x with
        links := x.links.map fun y => if y.id == l then { y with linkErr := satInc y.linkErr } else y }) (postError die ctx uid t s))

/-- How an engine's access ended: made; to be tried again (a PTE found busy, bytes that a copy owns: R127, R405); or never
possible, since its translation faults. -/
inductive Served where
  | ok | wait | lost
deriving DecidableEq, Repr, Inhabited

/-- An engine's translation for `n` bytes, its walks made at once, A and D set (R411); bytes that a copy owns are waited for
as a walk is (R127). -/
def reach (s : State) (die c va n : Nat) (want : Want) : State × Xl :=
  let s := if want.walker then walkFill 4 s die c va want else s
  let r := match xlate 4 s die c va want with
    | .miss => (let s := walkFill 4 s die c va want; (s, xlate 4 s die c va want))
    | x => (s, x)
  match r with
  | (s, .ok k) => (s, if copyOwns s k n then .miss else .ok k)
  | r => r

/-- An engine's read of memory, with its bytes. -/
def engineRead (s : State) (die c va n : Nat) (want : Want) : State × Served × List Byte :=
  match reach s die c va n want with
  | (s, .ok k) => (let t := recallBytes k n (routeLost die c 0 false 0 va 0 k s); (t, .ok, cohRead t k n))
  | (s, .miss) => (s, .wait, [])
  | (s, .fault _ _ _) => (s, .lost, [])
/-- An engine's write. -/
def engineWrite (s : State) (die c va : Nat) (bs : List Byte) (want : Want) : State × Served :=
  match reach s die c va bs.length want with
  | (s, .ok k) => (writeHome (routeLost die c 0 false 0 va 0 k s) k bs, .ok)
  | (s, .miss) => (s, .wait)
  | (s, .fault _ _ _) => (s, .lost)

/-! ### Writes that an engine owes (R373, R384, R385) -/

/-- -2^62 as a 64-bit pattern. -/
def stampVal : Nat := 0xC000000000000000
/-- What an owed write makes of a place's bytes. -/
def OwedOp.bytes (old : Nat) : OwedOp → List Byte
  | .put bs => bs
  | .dec => bytesOf 8 ((old + (2 ^ 64 - 1)) % 2 ^ 64)
  | .stamp => bytesOf 8 (if sextN old 64 ≤ sextN stampVal 64 then old else stampVal)
/-- How many bytes it writes. -/
def OwedOp.size : OwedOp → Nat
  | .put bs => bs.length
  | _ => 8
/-- What an engine of a die wants of a translation. -/
def rdWant : Want := { rd := true }
def wrWant : Want := { wr := true, store := true }
def rwWant : Want := { rd := true, wr := true, refused := [5] }

/-- Performs an owed write at its home, once; none while its place cannot be reached. One whose translation has come to
fault is dropped: the manual gives no outcome (assumption 38). -/
def payOwed (o : Owed) (s : State) : Option State :=
  let (s, x) := match o.key with
    | some k => (s, if copyOwns s k o.op.size then Xl.miss else .ok k)
    | none => reach s o.die o.ctx o.va o.op.size (match o.op with | .put _ => wrWant | _ => rwWant)
  match x with
  | .ok k =>
    (let s := recallBytes k o.op.size (routeLost o.die o.ctx 0 false 0 o.va 0 k s);
     some (writeHome s k (o.op.bytes (cohNat s k o.op.size))))
  | .fault _ _ _ => some s
  | .miss => none
/-- A write that an engine makes now, or owes, behind what is already owed to its address. -/
def owe (o : Owed) (s : State) : State :=
  if s.owed.any fun x => x.ctx == o.ctx && x.va == o.va then { s with owed := s.owed ++ [o] }
  else match payOwed o s with
    | some t => t
    | none => { s with owed := s.owed ++ [o] }
/-- Owed writes are tried again, in order; one behind another to its address waits for it. -/
def payAll (s : State) : State :=
  flushMsix (s.owed.foldl (fun s o => owe o s) { s with owed := [] })

/-- The save area's directory entry of a core, or with core 20 of the die's own engines (R431). -/
def saveEntry (s : State) (c die core : Nat) : Nat :=
  let b := descN s c 0x0A8 8
  cohNat s (dramKey (bitsOf b 49 44) (bitsOf b 43 12 * 4096 + 8 * (21 * die + core))) 8
/-- The place of a save slot, if its entry is valid. -/
def saveSlot (s : State) (c die core : Nat) : Option Nat :=
  let e := saveEntry s c die core
  if bitAt e 63 then some (dramKey (bitsOf e 49 44) (bitsOf e 43 12 * 4096)) else none
/-- May a context use a core (R431)? -/
def mayUse (s : State) (c die core : Nat) : Bool := (saveSlot s c die core).isSome && (saveSlot s c die 20).isSome

end Sys2Proof.Machine
end

