-- ==== Sys2Proof/Machine/Access.lean ====
section
/-! DEFINITION. Accesses in flight: issuing them (R17, R259 to R261), what orders them (R114 to R124), and performing them at
their place (R115 to R117, R257, R265 to R269). -/
namespace Sys2Proof.Machine
open Sys2Proof

/-! ### What orders accesses (R119, R120, R122, R127) -/

/-- The bytes one lane of an access touches. -/
def accSize : AccKind → Nat
  | .load m => match m with | 0 => 1 | 1 => 2 | 2 => 4 | 3 => 8 | 4 => 16 | 5 => 1 | _ => 2
  | .store n => n
  | .xrnd _ => 64
  | .atom _ t _ => if t == 2 || t == 3 || t == 7 then 8 else 4
  | .xadd _ => 64
  | .tload e sdb _ => if sdb then 64 else match e with
    | 0 => 1 | 1 => 2 | 2 => 4 | 3 => 8 | 4 => 1 | 5 => 2 | 6 => 4 | 7 => 8 | 8 => 2 | 9 => 2 | 10 => 4 | 11 => 8 | _ => 1
  | .tstore4 => 1
  | .texture => 0
  | .raster => 0
  | .publish _ _ => 0

/-- Is it performed in memory lane by lane or quad by quad (not a texture request, a batch or a PUBLISH)? -/
def isAccess : AccKind → Bool
  | .texture => false
  | .raster => false
  | .publish _ _ => false
  | _ => true
/-- Does it only read? -/
def isLoad : AccKind → Bool
  | .load _ => true
  | .xrnd _ => true
  | .tload _ _ _ => true
  | _ => false
/-- Is it an atomic read-modify-write at the home (R267)? -/
def isAtomic : AccKind → Bool
  | .atom _ _ _ => true
  | .xadd _ => true
  | _ => false

/-- Does lane `b` of access `q` come from the same agent as lane `a` of `p` (R114)? -/
def sameAgent (p : Pending) (a : LaneAcc) (q : Pending) (b : LaneAcc) : Bool :=
  q.uid == p.uid && q.thread == p.thread && q.scalar == p.scalar && (p.scalar || p.thread || b.lane == a.lane)

/-- Must lane `a` of `p` wait for lane `b` of an earlier access `q` of its agent: one location, an earlier acquire, a later
release, or registers of MMIO (R104, R119)? -/
def mustFollow (p : Pending) (a : LaneAcc) (q : Pending) (b : LaneAcc) : Bool :=
  (a.key < b.key + accSize q.kind && b.key < a.key + accSize p.kind) || bitAt q.ord 0 || bitAt p.ord 1 ||
  (tgtOfKey a.key == 5 && tgtOfKey b.key == 5)

/-- Do a fence's pairs order lane `a` of `p` behind an earlier access `q` of its agent: an acquire fence a read, a release
fence a write of `p` (R119, R274); what a wave did before it stopped comes before all it does when it goes on (R133)? -/
def fenced (p : Pending) (a : LaneAcc) (q : Pending) : Bool :=
  p.marks.any fun m => Mask.has m.lanes a.lane && q.id < m.first &&
    ((bitAt m.ord 0 && (isLoad q.kind || isAtomic q.kind)) || (bitAt m.ord 1 && !isLoad p.kind) || bitAt m.ord 2)

/-! ### Streams beside accesses (R309) -/

/-- The bytes of an element of a stream (Table 10.3). -/
def mtySize (m : BitVec 4) : Nat := accSize (.load m.toNat)
/-- A bound queue. -/
def findQ (w : Wave) (q : Nat) : Option OpQueue := w.queues.find? fun x => x.name == q
/-- The queue a one-word form names (R294). -/
def qOf (f : RF) : Nat := ctlOf f.c % 16
/-- Is the queue of a QPUSH full (R17, R303)? One that it may not push to is
not waited for. -/
def queueFull (f : RF) (s : State) : Bool :=
  (findQ s.wave (qOf f)).any fun x => x.prod != .porter && !x.closed && 16 ≤ x.entries.length
/-- The elements of an affine stream. -/
def streamCount (t : PStream) : Nat := t.counts.foldl (· * ·) 1
/-- The offset of element `e` (R299). -/
def elemOff : Nat → List Nat → List W32 → Int
  | e, c :: cs, d :: ds => ((e % c : Nat) : Int) * d.toInt + elemOff (e / c) cs ds
  | _, _, _ => 0
/-- The address of element `e` of an affine stream. -/
def elemAddr (t : PStream) (e : Nat) : Nat := wrapN ((t.base.toNat : Int) + elemOff e t.counts t.strides) 64
/-- The lanes and addresses of an index entry (R300). -/
def indexLanes (w : Nat) (t : PStream) (e : QEntry) : List (Nat × Nat) :=
  ((List.range w).filter fun l => e.valid.getLsbD l && Store.get 0 e.elems l != 0xFFFFFFFF#32).map fun l =>
    (l, (t.base.toNat + (Store.get 0 e.elems l).toNat * 2 ^ t.sh) % 2 ^ 64)
/-- The lowest address and the length of all that an affine stream touches. -/
def streamBox (t : PStream) : Nat × Nat :=
    let ds := (t.counts.zip t.strides).map fun d => ((d.1 - 1 : Nat) : Int) * d.2.toInt
    let lo := ds.foldl (fun a d => a + min 0 d) (t.base.toNat : Int)
    let hi := ds.foldl (fun a d => a + max 0 d) (t.base.toNat : Int)
    (lo.toNat, (hi - lo).toNat + 16)
/-- Does an element at one of some addresses lie among `n` bytes at a place, whatever its page is mapped as? -/
def elemsMeet (s : State) (w : Wave) (size : Nat) (as_ : List Nat) (va key n : Nat) : Bool :=
  let maps (page : Nat) : Bool := page == va / 4096 ||
    (match xlate 4 s w.die w.ctx (4096 * page) { walker := true } with | .ok k => k / 4096 == key / 4096 | _ => false)
  let near := as_.filter fun a => a % 4096 < key % 4096 + n && key % 4096 < a % 4096 + size
  let pages := (near.map (· / 4096)).eraseDups.filter maps
  near.any fun a => pages.contains (a / 4096)
/-- May an indexed stream still take entries that have not been pushed: its queue is open and its limit not reached by those in
it? -/
def unpushed (w : Wave) (t : PStream) (held : Nat) : Bool :=
  !((findQ w t.qi).any (·.closed)) && (match t.limit with | some m => held < m | none => true)
/-- Has a stream an element that it has still to access among the bytes of another access? An indexed stream that may still take
an entry that is not pushed may name any place, but for the element of a stream that forms the entries of its index queue: those
that precede it are pushed (assumption 39). `feeds` is the queue that the other access fills. -/
def streamMeets (s : State) (w : Wave) (t : PStream) (feeds : Option Nat) (va key n : Nat) : Bool :=
  if t.indexed then
    let es := t.pre.toList ++ ((findQ w t.qi).map (·.entries)).getD []
    (unpushed w t es.length && feeds != some t.qi) ||
      elemsMeet s w (mtySize t.mty) (es.flatMap fun e => (indexLanes w.width t e).map (·.2)) va key n
  else elemsMeet s w (mtySize t.mty) ((List.range (streamCount t - t.next)).map fun j => elemAddr t (t.next + j)) va key n
/-- Must an access of an access thread, or of its stream, wait for an earlier store stream of the thread: accesses to one location
are performed in stream issue order (R309)? -/
def streamBefore (s : State) (w : Wave) (id : Nat) (feeds : Option Nat) (va key n : Nat) : Bool :=
  w.streams.any fun t => t.id < id && !t.isLoad && streamMeets s w t feeds va key n
/-- Remembers bytes of places that a later access has come to; the first ones stay. -/
def PStream.keep (key : Nat) (bs : List Byte) (t : PStream) : PStream :=
  { t with early := t.early ++ (((List.range bs.length).zip bs).map fun x => (key + x.1, x.2)).filter fun x =>
      !(t.early.any fun y => y.1 == x.1) }
/-- The bytes that a load stream's element reads at a place that holds `bs`. -/
def PStream.sees (key : Nat) (bs : List Byte) (t : PStream) : List Byte :=
  ((List.range bs.length).zip bs).map fun x => ((t.early.find? fun y => y.1 == key + x.1).map (·.2)).getD x.2
/-- Does an access come before a copy: it precedes the command in its wave's program order, or a barrier orders it (R126, R127)?
-/
def beforeCopy (p : Pending) (c : Copy) : Bool :=
  (p.uid == c.uid && !p.thread && p.id < c.order) || (p.ctx == c.ctx && p.id < c.fence)
/-- Must an access wait for a copy to write its bytes (R127)? A store of a context whose image holds the copy waits too (R349). -/
def copyHolds (s : State) (p : Pending) (key n : Nat) : Bool :=
  let owns (c : Copy) : Bool := !beforeCopy p c && c.owned.any fun r => r.1 < key + n && key < r.1 + r.2
  (s.tags.any fun t => t.copy.any owns) ||
  (p.ndst == 0 && s.images.any fun i => i.ctx == p.ctx && i.tags.any fun t => t.copy.any owns)
/-- May lane `a` of an access be performed now? The context's accesses numbered below its fence are performed (R130, R131,
R133), those of its agent that it must follow are performed, and no copy owns its bytes (R127); an access thread's follow its
earlier streams (R309). -/
def laneReady (s : State) (p : Pending) (a : LaneAcc) : Bool :=
  !copyHolds s p a.key (accSize p.kind) &&
  !(p.thread && (findWave p.uid s).any fun w => streamBefore s w p.id none a.va a.key (accSize p.kind)) &&
  s.pend.all fun q => q.id ≥ p.id || !isAccess q.kind ||
    (!(q.ctx == p.ctx && !q.thread && q.id < p.fence) &&
     q.lanes.all fun b => !(sameAgent p a q b && (mustFollow p a q b || fenced p a q)))

/-- The lanes of an access that one reply covers: the quad's, or the one of a scalar form (R260). -/
def quadLanes (p : Pending) (quad : Nat) : List LaneAcc :=
  p.lanes.filter fun a => if p.scalar || p.thread then true else a.lane / 4 == quad

/-- May a reply for a quad come now? -/
def quadReady (s : State) (p : Pending) (quad : Nat) : Bool :=
  let ls := quadLanes p quad
  isLoad p.kind && !ls.isEmpty && ls.all (laneReady s p)
/-- May the whole access be performed now? -/
def allReady (s : State) (p : Pending) : Bool := isAccess p.kind && !isLoad p.kind && p.lanes.all (laneReady s p)

/-! ### Issue (R259 to R261) -/

/-- The executing split's or thread's next access. Its MODE is the wave's at issue: the manual does not say which MODE a
request in flight uses when SWR changes it (assumption 15). -/
def newPending (s : State) (kind : AccKind) (ord : Nat) (scalar : Bool) (dst ndst : Nat) (lanes : List LaneAcc) : Pending :=
  { id := s.nextId, uid := s.wave.uid, die := s.wave.die, core := s.wave.core, ctx := s.wave.ctx, team := s.wave.team,
    thread := s.acc, pc := pcOf s, kind := kind, ord := ord, fence := if s.acc then 0 else s.wave.fence,
    marks := if s.acc || scalar then s.wave.marks.filter fun m => bitAt m.ord 2 else s.wave.marks,
    scalar := scalar, dst := dst, ndst := ndst, lanes := lanes,
    mode := s.wave.mode, args := [] }

/-- What a wave did before it stopped comes before all that it does when it goes on (R133): a mark over its accesses in flight. -/
def afterStop (s : State) (w : Wave) : Wave :=
  if s.pend.any fun p => p.uid == w.uid then { w with marks := { lanes := Mask.low 64, ord := 4, first := s.nextId } :: w.marks } else w

/-- Must a plain read made at the probe stage wait for an earlier access (R176, R287)? -/
def readWaits (s : State) (scalar : Bool) (lane key n : Nat) : Bool :=
  let a : LaneAcc := { lane := lane, va := 0, key := key, val := 0, cmp := 0 }
  !laneReady s (newPending s (.store n) 0 scalar 0 0 []) a

/-- The accesses in the memory unit's queue of the wave's sub-core (R260). -/
def queued (s : State) : Nat :=
  (s.pend.filter fun p => !p.thread && isAccess p.kind && (allWaves s).any fun w =>
    w.uid == p.uid && w.onSub s.wave.die s.wave.core s.wave.sub).length

/-- Is the memory unit's queue full (R17, R260)? -/
def memFull (s : State) : Bool := 16 ≤ queued s
/-- The shape of a command of the memory unit (R260). -/
def issueMem (i : Instr) (s : State) (body : State → Eff) : Out := issueEng memFull i s body

/-- Marks the destinations of a long-latency instruction empty (R53, R260). -/
def markDst (scalar : Bool) (dst n : Nat) (lanes : Mask) (s : State) : State :=
  let rs := (List.range n).map fun j => dst + j
  if s.acc then onThread (fun t => { t with empty := rs ++ t.empty }) s
  else if scalar then onFocus (fun w => { w with sEmpty := rs ++ w.sEmpty }) s
  else onFocus (fun w => rs.foldl (fun w r => w.markEmpty r lanes) w) s

/-- An access is issued: its long-latency destinations are marked empty, and it waits to be performed. -/
def addPending (p : Pending) (s : State) : State :=
  let s := markDst p.scalar p.dst p.ndst (Mask.ofLanes (p.lanes.map (·.lane))) s
  { s with pend := s.pend ++ [p], nextId := s.nextId + 1 }

/-- A memory trap: the split's MASK stands for the lanes of a scalar access. -/
def memTrap (s : State) (scalar : Bool) (cause sub : Nat) (m : Mask) (addr : Nat) : Eff :=
  .trap { cause := cause, sub := sub, mask := if scalar then maskOf s else m, addr := addrW addr }

/-- The probe stage's checks of a memory instruction, then its issue (R259): `accs` are its lanes and addresses. -/
def probeIssue (s : State) (scalar : Bool) (align n : Nat) (want : Want) (accs : List (Nat × Nat))
    (go : List (Nat × Nat × Nat) → State) : Eff :=
  if accs.isEmpty then .next s
  else if memFull s then .hold []
  else
    let bad := accs.filter fun a => a.2 % align != 0
    if !bad.isEmpty then memTrap s scalar 7 0 (Mask.ofLanes (bad.map (·.1))) ((bad.map (·.2)).headD 0)
    else match probe s s.wave.die s.wave.ctx n want accs with
      | .miss va => .walk (walkFor s.wave.die s.wave.ctx va want)
        (hitsOf s s.wave.die s.wave.ctx want (accs.map (·.2)) ++ s.wave.cur.held)
      | .fault k sub m a => memTrap s scalar k sub m a
      | .ok keys => .next (go keys)

/-! ### Values in memory (Table 9.2, R257, R265, R266) -/

/-- What LD writes (Table 9.2). -/
def loadRegs (mty : Nat) (b : List Byte) : List W32 :=
  let x := natOfBytes b
  match mty with
  | 3 => [BitVec.ofNat 32 x, BitVec.ofNat 32 (x / 2 ^ 32)]
  | 4 => (List.range 4).map fun j => BitVec.ofNat 32 (x / 2 ^ (32 * j))
  | 5 => [BitVec.ofNat 32 (wrapN (sextN x 8) 32)]
  | 6 => [BitVec.ofNat 32 (wrapN (sextN x 16) 32)]
  | 7 => [BitVec.ofNat 32 (roundF f32 0 (decodeF f16 x))]
  | 8 => [BitVec.ofNat 32 (roundF f32 0 (decodeF bf16 x))]
  | _ => [BitVec.ofNat 32 x]

/-- What ST stores (Table 9.2): a value of the access's size. -/
def storeVal (mty x : Nat) : Nat :=
  match mty with
  | 7 => roundF f16 0 (decodeF f32 (x % 2 ^ 32))
  | 8 => roundF bf16 0 (decodeF f32 (x % 2 ^ 32))
  | m => x % 2 ^ (8 * accSize (.load m))

/-- One atomic element of a floating-point format (R266): add, min, max; never flushed. -/
def atomF (f : Fmt) (aop old data : Nat) : Nat :=
  match aop with
  | 0 => roundF f 0 (XVal.add false (decodeF f old) (decodeF f data))
  | 2 => minMaxF f false false old data
  | _ => minMaxF f true false old data
/-- The integer TYPE of an ATYPE below 4. -/
def atyInt (t : Nat) : BitVec 4 := match t with | 0 => 2 | 1 => 6 | 2 => 3 | _ => 7
/-- The new value of an atomic (Table 9.3). -/
def atomNew (aop aty old data cmp : Nat) : Nat :=
  if aop == 7 then data
  else if aop == 8 then (if old == cmp then data else old)
  else if aty == 4 then atomF f32 aop old data
  else if aty == 7 then atomF f64 aop old data
  else if aty == 5 || aty == 6 then
    let f := if aty == 5 then f16 else bf16
    atomF f aop (old % 2 ^ 16) (data % 2 ^ 16) + 2 ^ 16 * atomF f aop (old / 2 ^ 16) (data / 2 ^ 16)
  else
    let t := atyInt aty
    let x := valTy t old
    let y := valTy t data
    match aop with
    | 0 => wrapTy t (x + y)
    | 1 => wrapTy t (x - y)
    | 2 => wrapTy t (min x y)
    | 3 => wrapTy t (max x y)
    | 4 => old &&& data
    | 5 => old ||| data
    | 6 => old ^^^ data
    | 9 => if old ≥ data then 0 else old + 1
    | _ => if old == 0 || old > data then data else old - 1

/-- The values an XADD lane adds (R268). -/
def xaddVals (aty data : Nat) : List XVal :=
  match aty with
  | 4 => [decodeF f32 data]
  | 5 => [decodeF f16 data, decodeF f16 (data / 2 ^ 16)]
  | _ => [decodeF bf16 data, decodeF bf16 (data / 2 ^ 16)]

/-- What TLD writes (Table 9.8). A block's element is flushed as R87 has a consumer of an f32 apply R80, though R80 says that
loads never flush (assumption 20). An element of a block whose FMT's count is not the handle's decodes by the reserved rule. -/
def tloadRegs (mode : W32) (ety : Nat) (sdb : Bool) (ecount idx : Nat) (b : List Byte) : List W32 :=
  if sdb then
    let h := sdbHeader b
    let h := { h with reserved := h.reserved || (h.fmt != 8 && h.count != some ecount) }
    [BitVec.ofNat 32 (resF mode.toNat 10 0 (sdbValue (mode.getLsbD 3) h b idx))]
  else
    let x := natOfBytes b
    match ety with
    | 0 => loadRegs 5 b
    | 1 => loadRegs 6 b
    | 3 => loadRegs 3 b
    | 7 => loadRegs 3 b
    | 11 => loadRegs 3 b
    | 2 => loadRegs 2 b
    | 4 => loadRegs 0 b
    | 5 => loadRegs 1 b
    | 6 => loadRegs 2 b
    | 10 => loadRegs 2 b
    | t => [BitVec.ofNat 32 (roundF f32 0 (decodeTy t (if t == 14 then x / 16 ^ idx % 16 else x)))]
/-- Does a TLD's block decode by the reserved-FMT rule (R87, R288)? -/
def tloadReserved (ecount : Nat) (b : List Byte) : Bool :=
  let h := sdbHeader b
  h.reserved || (h.fmt != 8 && h.count != some ecount)

/-! ### Performing -/

/-- Writes a reply into a wave's registers, wherever they lie (R260, R432). -/
def Wave.putReply (p : Pending) (l : Nat) (xs : List W32) (w : Wave) : Wave :=
  if p.thread then
    { w with thread := w.thread.map fun t =>
        { t with regs := ((List.range xs.length).zip xs).foldl (fun r x => Store.set 0 r (p.dst + x.1) x.2) t.regs } }
  else if p.scalar then
    { w with s := ((List.range xs.length).zip xs).foldl (fun r x => Store.set 0 r (p.dst + x.1) x.2) w.s }
  else w.setGroup p.dst l xs

/-- Marks a reply's destinations full in a quad (R260). -/
def Wave.fullReply (p : Pending) (quad : Nat) (w : Wave) : Wave :=
  let rs := (List.range p.ndst).map fun j => p.dst + j
  if p.thread then { w with thread := w.thread.map fun t => { t with empty := t.empty.filter fun r => !rs.contains r } }
  else if p.scalar then { w with sEmpty := w.sEmpty.filter fun r => !rs.contains r }
  else rs.foldl (fun w r => w.markFull r quad) w

/-- Applies a change to a wave that is resident or held in a context's image (R432). -/
def onAnyWave (uid : Nat) (f : Wave → Wave) (s : State) : State :=
  let s := onWave uid f s
  { s with images := s.images.map fun i => { i with waves := i.waves.map fun w => if w.uid == uid then f w else w } }
/-- An access of a wave's access thread, or of its stream, comes to `n` bytes: the loads that its earlier load streams have still
to make there read them as they are now, so that stream issue order holds without waiting for those streams (R309). -/
def keepEarly (uid id key n : Nat) (s : State) : State :=
  let b := cohRead s key n
  onAnyWave uid (fun w => { w with streams := w.streams.map fun t => if t.isLoad && t.id < id then t.keep key b else t }) s

/-- The lanes of a request that are done leave it; a request without lanes is finished. -/
def dropLanes (id : Nat) (done : LaneAcc → Bool) (s : State) : State :=
  { s with pend := s.pend.filterMap fun p =>
      if p.id == id then
        (let ls := p.lanes.filter fun a => !done a; if ls.isEmpty then none else some { p with lanes := ls })
      else some p }

/-- The registers a load's lane receives, and the state after its read (R257, R269, R288). SDBRES counts a reserved block once
for each lane that reads it; the manual does not say how often (assumption 20). -/
def readLane (p : Pending) (a : LaneAcc) (s : State) : State × List W32 :=
  let (t, b) := match p.kind with
    | .xrnd _ => (let t := recallBytes a.key 64 s; (t, cohRead t a.key 64))
    | k => readAs s (some p.team) a.va a.key (accSize k)
  match p.kind with
  | .load m => (t, loadRegs m b)
  | .xrnd m => (t, if m == 3 then loadRegs 3 (bytesOf 8 (cellRound f64 b)) else loadRegs 2 (bytesOf 4 (cellRound f32 b)))
  | .tload e sdb n =>
    let t := if sdb && tloadReserved n b then onDie p.die (fun d => { d with sdbres := satInc d.sdbres }) t else t
    (t, tloadRegs p.mode e sdb n a.cmp b)
  | _ => (t, [])

/-- Does a TLD meet a reserved block under MODE.STRICT (R87)? Such a trap is fatal. -/
def strictBlock (p : Pending) (ls : List LaneAcc) (s : State) : Option LaneAcc :=
  match p.kind with
  | .tload _ true n =>
    if p.mode.getLsbD 7 then ls.find? fun a => tloadReserved n (cohRead s a.key 64) else none
  | _ => none

/-- The trap of an uncorrectable error that lanes of an access meet. -/
def laneTrap (p : Pending) (sub : Nat) (ls : List LaneAcc) : Trap :=
  eccTrap sub (Mask.ofLanes (ls.map (·.lane))) ((ls.map (·.va)).headD 0) p.pc
/-- A lane's access meets a peer that cannot be reached (R490). -/
def laneLost (p : Pending) (a : LaneAcc) (s : State) : State :=
  routeLost p.die p.ctx p.uid (p.mode.getLsbD 7) (Mask.one a.lane) a.va p.pc a.key s

/-- The reply of a quad (R260): its lanes are read and written, and its destinations are full. A reserved block under
MODE.STRICT raises its trap (R87) with nothing counted; what the destinations then hold the manual does not say (assumption 20).
-/
def performLoad (p : Pending) (quad : Nat) (s : State) : State :=
  let ls := quadLanes p quad
  match strictBlock p ls s with
  | some a =>
    let s := raiseFatal p.ctx p.uid (laneTrap p 3 [a]) s
    let s := ls.foldl (fun s a => onAnyWave p.uid (Wave.putReply p a.lane
      ((List.range p.ndst).map fun (j : Nat) => Config.undefWord s.freeCtr (1024 + a.lane) j)) s) s
    dropLanes p.id (fun a => ls.contains a) (onAnyWave p.uid (Wave.fullReply p quad) s)
  | none =>
    let s := ls.foldl (fun s a =>
      let s := if p.thread then keepEarly p.uid p.id a.key (accSize p.kind) s else s
      let r := readLane p a (laneLost p a s)
      onAnyWave p.uid (Wave.putReply p a.lane r.2) r.1) s
    dropLanes p.id (fun a => ls.contains a) (onAnyWave p.uid (Wave.fullReply p quad) s)

/-- One lane of a store, atomic or XADD at its place (R116, R117, R263 to R268, R289). -/
def performLane (p : Pending) (s : State) (a : LaneAcc) : State :=
  let s := laneLost p a s
  let s := if p.thread then keepEarly p.uid p.id a.key (accSize p.kind) s else s
  match p.kind with
  | .store n => writeAs s (some p.team) a.va a.key (bytesOf n a.val)
  | .tstore4 =>
    let s := recallBytes a.key 1 s
    let old := cohNat s a.key 1
    writeHome s a.key (bytesOf 1 (if a.cmp == 0 then old / 16 * 16 + a.val % 16 else old % 16 + 16 * (a.val % 16)))
  | .atom aop aty ret =>
    let n := accSize p.kind
    let s := recallBytes a.key n s
    let old := cohNat s a.key n
    let s := writeHome s a.key (bytesOf n (atomNew aop aty old a.val a.cmp))
    if ret then onAnyWave p.uid (Wave.putReply p a.lane (loadRegs (if n == 8 then 3 else 2) (bytesOf n old))) s else s
  | .xadd aty =>
    let s := recallBytes a.key 64 s
    writeHome s a.key ((xaddVals aty a.val).foldl cellAdd (cohRead s a.key 64))
  | _ => s

/-- A store or atomic is performed in every lane, in ascending lane order (R116). -/
def performAll (p : Pending) (s : State) : State :=
  let s := p.lanes.foldl (performLane p) s
  let s := match p.kind with
    | .atom _ _ true => onAnyWave p.uid (fun w => ((p.lanes.map fun a => a.lane / 4).eraseDups).foldl (fun w q => w.fullReply p q) w) s
    | _ => s
  dropLanes p.id (fun _ => true) s

/-- A request by its id. -/
def findPending (s : State) (id : Nat) : Option Pending := s.pend.find? fun p => p.id == id

/-- May a wave's request to a unit begin: has none of its earlier requests to it still to begin (R16)? -/
def inTurn (s : State) (p : Pending) (same : AccKind → Bool) : Bool :=
  !(s.pend.any fun q => q.uid == p.uid && q.id < p.id && same q.kind)

end Sys2Proof.Machine
end

