-- ==== Sys2Proof/Machine/MemUnit.lean ====
section
/-! DEFINITION. The memory unit: opcodes 0xA0 to 0xAC (R255 to R282), and the events that perform accesses (R107, R117,
R124, R260). -/
namespace Sys2Proof.Machine
open Sys2Proof

/-! ### Addresses and data of the M and A formats -/

/-- The 64-bit base of a lane (R33). -/
def baseVal (s : State) (b : BitVec 8) (l : Nat) : Nat :=
  match baseOf b with
  | .v n => (rdV64 s n l).toNat
  | .s n => (rdS64 s n).toNat
/-- ea of R263. -/
def mEa (s : State) (f : MF) (l : Nat) : Nat := wrapN ((baseVal s f.base l : Int) + mOff f) 64
/-- The DATA registers of an M-format instruction as one number, lowest register first. -/
def mData (s : State) (f : MF) (l : Nat) : Nat :=
  (List.range (mtyRegs f.mty)).foldl (fun x j =>
    x + 2 ^ (32 * j) * (if f.sc then rdS s (f.data.toNat + j) else rdV s (f.data.toNat + j) l).toNat) 0
/-- The lanes an M-format instruction accesses for: one for the scalar form. -/
def mLanes (s : State) (f : MF) : List Nat := if f.sc then [0] else Mask.lanes (activeOf s f.k f.kn)
/-- The targets that refuse an access kind (R104, R105): MMIO, or MMIO and HOST. -/
def noMmio : List Nat := [5]
def noHost : List Nat := [3, 5]
/-- What an access of the executing split or thread wants of its translation (R408); an access thread's is refused on HOST and
MMIO pages (R302). -/
def wantOf (s : State) (rd wr : Bool) (refused : List Nat) : Want :=
  { rd := rd, wr := wr, store := wr && !rd, sup := !s.acc && s.wave.cur.h,
    refused := if s.acc then noHost else refused, team := some s.wave.team,
    unit := some (s.wave.core, s.wave.sub), holder := if s.acc then none else some (s.wave.uid, s.wave.cur.idx) }
/-- The lane records of a probed access. -/
def laneAccs (keys : List (Nat × Nat × Nat)) (val cmp : Nat → Nat) : List LaneAcc :=
  keys.map fun k => { lane := k.1, va := k.2.1, key := k.2.2, val := val k.1, cmp := cmp k.1 }

/-! ### Loads and stores (R263, R269 to R272) -/

/-- LD, XRND: `kind` is what is read. -/
def loadR (f : MF) (kind : AccKind) (align : Nat) (refused : List Nat) (wr : Bool) (s : State) : Eff :=
  let n := accSize kind
  let nd := mtyRegs f.mty
  probeIssue s f.sc align n (wantOf s true wr refused) ((mLanes s f).map fun l => (l, mEa s f l)) fun keys =>
    addPending (newPending s kind f.ord.toNat f.sc f.data.toNat nd (laneAccs keys (fun _ => 0) fun _ => 0)) s

/-- ST. -/
def storeR (f : MF) (s : State) : Eff :=
  let n := accSize (.load f.mty.toNat)
  probeIssue s f.sc n n (wantOf s false true []) ((mLanes s f).map fun l => (l, mEa s f l)) fun keys =>
    addPending (newPending s (.store n) f.ord.toNat f.sc 0 0
      (laneAccs keys (fun l => storeVal f.mty.toNat (mData s f l)) fun _ => 0)) s

/-- The elements of COMPST and EXPLD: the active lanes in ascending order at consecutive addresses (R271). -/
def elements (s : State) (f : MF) : List (Nat × Nat) :=
  let n := accSize (.load f.mty.toNat)
  let ls := mLanes s f
  ((List.range ls.length).zip ls).map fun x => (x.2, (mEa s f 0 + x.1 * n) % 2 ^ 64)

/-- COMPST and EXPLD (R270 to R272): the start address alone is checked for alignment. -/
def compactR (f : MF) (isLoad : Bool) (s : State) : Eff :=
  let n := accSize (.load f.mty.toNat)
  let es := elements s f
  if !es.isEmpty && mEa s f 0 % n != 0 then memTrap s false 7 0 (activeOf s f.k f.kn) (mEa s f 0)
  else probeIssue s false 1 n (wantOf s isLoad (!isLoad) []) es fun keys =>
    if isLoad then
      addPending (newPending s (.load f.mty.toNat) f.ord.toNat false f.data.toNat (mtyRegs f.mty)
        (laneAccs keys (fun _ => 0) fun _ => 0)) s
    else
      addPending (newPending s (.store n) f.ord.toNat false 0 0
        (laneAccs keys (fun l => storeVal f.mty.toNat (mData s f l)) fun _ => 0)) s

/-! ### Atomics (R264 to R268) -/

/-- The TYPE an inline operand of an ATYPE is read as (R264); f16x2 and bf16x2 double the element. -/
def atyTy (t : Nat) : BitVec 4 :=
  match t with
  | 0 => 2 | 1 => 6 | 2 => 3 | 3 => 7 | 4 => 10 | 5 => 8 | 6 => 9 | _ => 11
/-- DATA or CMP of an atomic in a lane (R264). -/
def atomSrc (s : State) (aty : Nat) (o : Operand) (l : Nat) : Nat :=
  match o with
  | .imm n =>
    let x := immBits (atyTy aty) n
    if aty == 5 || aty == 6 then x + 2 ^ 16 * x else x
  | o => if atyRegs (BitVec.ofNat 3 aty) == 2 then src64 s o l else src32 s o l
/-- The targets that refuse an atomic (R104, R105). -/
def atomRefused (aop aty : Nat) : List Nat := if aty ≤ 3 && (aop == 0 || aop == 7 || aop == 8) then noMmio else noHost

/-- The lanes and addresses of an A-format instruction. -/
def aAccs (s : State) (f : AF) : List (Nat × Nat) :=
  (Mask.lanes (activeOf s f.k f.kn)).map fun l => (l, baseVal s f.base l)
/-- ATOM and ATOMN. -/
def atomR (f : AF) (ret : Bool) (s : State) : Eff :=
  let aty := f.aty.toNat
  let kind : AccKind := .atom f.aop.toNat aty ret
  let n := accSize kind
  probeIssue s false n n (wantOf s true true (atomRefused f.aop.toNat aty)) (aAccs s f) fun keys =>
    addPending (newPending s kind f.ord.toNat false (if ret then f.d.toNat else 0) (if ret then atyRegs f.aty else 0)
      (laneAccs keys (atomSrc s aty f.data) (atomSrc s aty f.cmp))) s
/-- XADD. -/
def xaddR (f : AF) (s : State) : Eff :=
  probeIssue s false 64 64 (wantOf s true true noHost) (aAccs s f) fun keys =>
    addPending (newPending s (.xadd f.aty.toNat) f.ord.toNat false 0 0
      (laneAccs keys (atomSrc s f.aty.toNat f.data) fun _ => 0)) s

/-! ### Prefetch and fence (R273, R274) -/

/-- PREF: it starts the walks its lanes miss on; no value changes. A `.stash` lane outside the team's bound ranges does nothing. A
walk that finds a first-touch entry is served as any other, so that it may take and zero a page of the pool: the manual does not
except it (assumption 17). -/
def prefR (f : MF) (s : State) : Eff :=
  let w := wantOf s true false [2, 3, 5]
  let fills (l : Nat) : Bool := f.mty != 2#4 || (slotOf s (some s.wave.team) (mEa s f l)).isSome
  let walks := ((mLanes s f).filter fills).filterMap fun l =>
    match xlate 4 s s.wave.die s.wave.ctx (mEa s f l) w with
    | .miss => some (walkFor s.wave.die s.wave.ctx (mEa s f l) { w with holder := none })
    | _ => none
  .next { s with agenda := walks ++ s.agenda }

/-- Is a write of the split's lanes still to be performed (R274, R435)? `scalar` counts the wave's scalar stores too. -/
def ownWrites (scalar : Bool) (s : State) : Bool :=
  s.pend.any fun p => p.uid == s.wave.uid && !p.thread && isAccess p.kind && !isLoad p.kind &&
    (if p.scalar then scalar else p.lanes.any fun a => Mask.has s.wave.cur.mask a.lane)
/-- The fences that an access of the wave in flight may still have to meet. -/
def liveMarks (s : State) : List FenceMark :=
  s.wave.marks.filter fun m => s.pend.any fun p => p.uid == s.wave.uid && p.id < m.first
/-- FENCE (R274): the pairs of R119 for the split's lanes; with ORD 11 the split is held until its lanes' earlier writes are
visible. The model makes them visible at every scope at once (assumption 22). -/
def fenceR (f : MF) (s : State) : Eff :=
  if f.ord == 0#2 then .next s
  else if f.ord == 3#2 && ownWrites false s then .hold []
  else
    let m : FenceMark := { lanes := s.wave.cur.mask, ord := f.ord.toNat, first := s.nextId }
    .next (onFocus (fun w => { w with marks := m :: liveMarks s }) s)

/-! ### Map slots (R277 to R282) -/

/-- Do two ranges overlap? -/
def rangesMeet (a n b m : Nat) : Bool := n != 0 && m != 0 && a < b + m && b < a + n
/-- Unbinds the slots of a team that a predicate picks: their dirty lines are written back (R278). -/
def unbind (t : Nat) (p : MapSlot → Bool) (s : State) : State :=
  match findTeam s t with
  | none => s
  | some x =>
    let gone := (x.maps.filter p).map (·.slot)
    let s := (x.dirty.filter fun d => gone.contains d.slot).foldl (fun s d => writeBackLine t d s) s
    onTeam t (fun x => { x with maps := x.maps.filter fun m => !p m }) s
/-- Does an access of the team in flight touch a range of addresses or of the stash (R278)? -/
def teamTouches (s : State) (t : Nat) (ranges : List (Nat × Nat)) (keys : List (Nat × Nat)) : Bool :=
  s.pend.any fun p => p.team == t && isAccess p.kind && p.lanes.any fun a =>
    (ranges.any fun r => rangesMeet r.1 r.2 (a.va % 2 ^ 52) (accSize p.kind)) ||
    (keys.any fun r => rangesMeet r.1 r.2 a.key (accSize p.kind))
/-- The first page of a range that is an MMIO page, or whose entry is busy (R104): its address, and whether it waits. -/
def mmioPage (s : State) (g len : Nat) : Option (Nat × Bool) :=
  (List.range (len / 4096)).findSome? fun i =>
    let a := (g + 4096 * i) % 2 ^ 64
    match pteOf s s.wave.die s.wave.ctx a with
    | .pte w0 _ _ _ => if !pteFt w0 && pteTgt w0 == 5 then some (a, false) else none
    | .busy => some (a, true)
    | _ => none

/-- SMAP (R277, R278). What the window bytes of a region hold while it is bound, and once the slot is unbound, the manual does not
say: they become undefined when it is bound (assumption 5). -/
def smapR (f : RF) (s : State) : Eff :=
  match f.a, f.b, f.c with
  | .s a, .s b, .s c =>
    let g := (rdS64 s a.toNat).toNat
    let o := (rdS s b.toNat).toNat
    let len := (rdS s c.toNat).toNat
    match findTeam s s.wave.team with
    | none => .next s
    | some t =>
      if g % 4096 != 0 || o % 4096 != 0 || len % 4096 != 0 then memTrap s true 7 0 0 g
      else if len != 0 && !canonical g then memTrap s true 0x0A 2 0 g
      else if len != 0 && o + len > t.alloc then memTrap s true 9 6 0 g
      else match if len == 0 then none else mmioPage s g len with
        | some (x, true) => .hold [walkFor s.wave.die s.wave.ctx x walkRd]
        | some (x, false) => memTrap s true 9 5 0 x
        | none =>
          let g := g % 2 ^ 52
          let slot := f.ty.toNat
          let hit (m : MapSlot) : Bool := m.slot == slot || rangesMeet m.o m.len o len || rangesMeet m.g m.len g len
          let base := stashKey t.die t.core t.off
          let old := t.maps.filter hit
          if teamTouches s t.id ((g, len) :: old.map fun m => (m.g, m.len))
              ((base + o, len) :: old.map fun m => (base + m.o, m.len)) then .hold []
          else
            let s := unbind t.id hit s
            if len == 0 then .next s
            else
              let s := memUndef s (base + o) len
              .next (onTeam t.id (fun x =>
                { x with maps := { slot := slot, g := g, o := o, len := len, ro := f.md == 1#2 } :: x.maps }) s)
  | _, _, _ => .next s

/-- Does an address count as mapped (R280): does the page table hold an entry for it, be it one being rewritten? -/
def isMapped (s : State) (die c va : Nat) : Bool :=
  match pteOf s die c va with
  | .pte _ _ _ _ => true
  | .busy => true
  | _ => false
/-- The lines of a range that the team holds dirty in its slots, where the page table still maps them (R280). -/
def dirtyIn (s : State) (t a len : Nat) : List DirtyLine :=
  match findTeam s t with
  | none => []
  | some x => x.dirty.filter fun d =>
      let va := extend52 (d.va % 2 ^ 52)
      a % 2 ^ 64 ≤ va && va < a % 2 ^ 64 + len && isMapped s x.die x.ctx va
/-- The length operand and start address of SFLUSH and SINV. -/
def rangeOf (f : MF) (s : State) : Nat × Nat := (mEa s f 0, (rdS s f.data.toNat).toNat)
/-- SFLUSH and SINV check their range (R280). -/
def rangeCheck (f : MF) (s : State) (go : Nat → Nat → Eff) : Eff :=
  let (a, len) := rangeOf f s
  if a % 64 != 0 || len % 64 != 0 then memTrap s true 7 0 0 a else go a len
/-- SFLUSH (R281). -/
def sflushR (f : MF) (s : State) : Eff :=
  rangeCheck f s fun a len => .next ((dirtyIn s s.wave.team a len).foldl (fun s d => writeBackLine s.wave.team d s) s)
/-- SINV (R282): stores issued before it are performed first, and then discarded. -/
def sinvR (f : MF) (s : State) : Eff :=
  rangeCheck f s fun a len =>
    if teamTouches s s.wave.team [(a % 2 ^ 52, len)] [] then .hold []
    else
      let ds := dirtyIn s s.wave.team a len
      .next (onTeam s.wave.team (fun t => { t with dirty := t.dirty.filter fun d => !ds.contains d }) s)

/-! ### The arms -/

def execLd (f : MF) (s : State) : Out :=
  issueMem (.ld f) s fun s => loadR f (.load f.mty.toNat) (accSize (.load f.mty.toNat)) [] false s
def execSt (f : MF) (s : State) : Out := issueMem (.st f) s (storeR f)
def execAtom (f : AF) (s : State) : Out := issueMem (.atom f) s (atomR f true)
def execAtomn (f : AF) (s : State) : Out := issueMem (.atomn f) s (atomR f false)
def execXadd (f : AF) (s : State) : Out := issueMem (.xadd f) s (xaddR f)
def execXrnd (f : MF) (s : State) : Out := issueMem (.xrnd f) s (loadR f (.xrnd f.mty.toNat) 64 noHost true)
def execCompst (f : MF) (s : State) : Out := issueMem (.compst f) s (compactR f false)
def execExpld (f : MF) (s : State) : Out := issueMem (.expld f) s (compactR f true)
def execPref (f : MF) (s : State) : Out := issue (.pref f) s (prefR f)
def execFence (f : MF) (s : State) : Out := issue (.fence f) s (fenceR f)
def execSmap (f : RF) (s : State) : Out := issue (.smap f) s (smapR f)
def execSflush (f : MF) (s : State) : Out := issue (.sflush f) s (sflushR f)
def execSinv (f : MF) (s : State) : Out := issue (.sinv f) s (sinvR f)

/-- LOAD_REPLY (R260). -/
def execLoadReply (id quad : Nat) (s : State) : Out :=
  match findPending s id with
  | some p => if quadReady s p quad && hasWave p.uid s then .next (performLoad p quad s) else .next s
  | none => .next s
/-- STORE_PERFORMED (R124): a plain store is visible once it is performed at its home. -/
def execStorePerformed (id : Nat) (s : State) : Out :=
  match findPending s id with
  | some p => if allReady s p && !isAtomic p.kind then .next (performAll p s) else .next s
  | none => .next s
/-- ATOMIC_AT_HOME (R117). -/
def execAtomicAtHome (id : Nat) (s : State) : Out :=
  match findPending s id with
  | some p => if allReady s p && isAtomic p.kind then .next (performAll p s) else .next s
  | none => .next s
/-- DIRECTORY_RECALL (R107): the line's dirty copy is written back; one that a Courier owns is left until it is written (R127). -/
def execDirectoryRecall (line : Nat) (s : State) : Out :=
  .next (if copyOwns s (64 * (line / 64)) 64 then s else recallLine (64 * (line / 64)) s)

end Sys2Proof.Machine
end

