-- ==== Sys2Proof/Machine/Tensor.lean ====
section
/-! DEFINITION. Tensor handles: opcodes 0xAD to 0xB0 (R283 to R289). -/
namespace Sys2Proof.Machine
open Sys2Proof

/-- A handle as its fields (Tables 9.4, 9.5). -/
structure Handle where
  vbase : Nat
  ltab : Nat
  rank : Nat
  ecount : Option Nat
  sdb : Bool
  ety : BitVec 4
  ok : Bool
deriving DecidableEq, Repr, Inhabited

/-- Reads a handle; `ok` says that no reserved bit is set and that ECOUNT and ETYPE are allowed (R286). -/
def readHandle (s : State) (h : Nat) : Handle :=
  let vb := (pair64 (rdH s h 0) (rdH s h 1)).toNat
  let lt := (pair64 (rdH s h 2) (rdH s h 3)).toNat
  let w := rdH s h 4
  let ec := (w.extractLsb' 5 2).toNat
  let sdb := w.getLsbD 4
  let ety := w.extractLsb' 0 4
  { vbase := extend52 vb, ltab := extend52 lt, rank := (w.extractLsb' 8 2).toNat,
    ecount := match ec with | 0 => some 62 | 1 => some 124 | 2 => some 31 | _ => none,
    sdb := sdb, ety := ety,
    ok := vb < 2 ^ 52 && lt < 2 ^ 52 && lt % 64 == 0 && w.extractLsb' 10 22 == 0#22 && !w.getLsbD 7 && ec != 3 &&
      (!sdb || ety == 0#4) && rdH s h 5 == 0#32 && rdH s h 6 == 0#32 && rdH s h 7 == 0#32 }

/-- What a read of a walk gives: a value, a wait for a walk of the page tables or for an earlier access, or a fault. -/
inductive Got where
  | val (x : Nat)
  | miss (va : Nat)
  | waits
  | fault (cause sub addr : Nat)
deriving DecidableEq, Repr, Inhabited

/-- A plain read of `n` bytes by a lane at the probe stage, of alignment `al` (R176, R287), with the recall it makes (R107);
the probe stage holds its translation until the instruction issues (R409). -/
def plainRead (s : State) (scalar : Bool) (refused : List Nat) (lane va al n : Nat) : State × Got :=
  let va := va % 2 ^ 64
  if va % al != 0 then (s, .fault 7 0 va)
  else match translate s s.wave.die s.wave.ctx va n (wantOf s true false refused) with
    | .miss => (s, .miss va)
    | .fault k sub a => (s, .fault k sub a)
    | .ok key =>
      let s := if s.acc then s else (hitsOf s s.wave.die s.wave.ctx
        (wantOf s true false refused) [va]).foldl (fun s e => onCur (Split.hold e) s) s
      if readWaits s scalar lane key n then (s, .waits)
      else let r := readAs s (some s.wave.team) va key n; (r.1, .val (natOfBytes r.2))

/-- Plain reads in order: lane, address, and the size that is also the alignment. -/
def plainReads (scalar : Bool) (refused : List Nat) : List (Nat × Nat × Nat) → State → State × List Got
  | [], s => (s, [])
  | (l, va, n) :: t, s =>
    let r := plainRead s scalar refused l va n n
    let q := plainReads scalar refused t r.1
    (q.1, r.2 :: q.2)

/-- The first index from `q` on, among `n`, whose coordinate is `i` (R287); none when there is none. -/
def findCrd (lane crd i : Nat) : Nat → Nat → State → State × Option Nat × Got
  | 0, _, s => (s, none, .val 0)
  | n + 1, q, s =>
    match plainRead s false noMmio lane (crd + 4 * q) 4 4 with
    | (s, .val x) => if x == i then (s, some q, .val 0) else findCrd lane crd i n (q + 1) s
    | (s, g) => (s, none, g)

/-- The coordinates of a segment as far as they can be read. -/
def peekCrds (s : State) (lane crd : Nat) : Nat → Nat → List Nat
  | 0, _ => []
  | n + 1, q =>
    match (plainRead s false noMmio lane (crd + 4 * q) 4 4).2 with
    | .val x => x :: peekCrds s lane crd n (q + 1)
    | _ => []
/-- Strictly ascending numbers. -/
def ascending : List Nat → Bool
  | x :: y :: t => x < y && ascending (y :: t)
  | _ => true
/-- The index that a walk finds: the one that matches, or in a segment that is not strictly ascending any that matches, or
none (R287; assumption 4). -/
def crdFound (s : State) (lane i lo : Nat) (crds : List Nat) (first : Option Nat) : Option Nat :=
  if ascending crds then first
  else
    let ms := ((List.range crds.length).zip crds).filterMap fun p => if p.2 == i then some (lo + p.1) else none
    ms[choose s (1024 + lane) (ms.length + 1)]?

/-- What a lane's walk gives: the element index, an absent element, or what it waits for or faults on. -/
inductive Walked where
  | elem (p : Nat)
  | absent
  | stop (g : Got)
deriving DecidableEq, Repr, Inhabited

/-- A lane's walk from level `j` on, `n` levels left (R287); `coord` gives the lane's coordinates. -/
def walkLevels (lane ltab : Nat) (coord : Nat → Nat) : Nat → Nat → Nat → State → State × Walked
  | 0, _, p, s => (s, .elem p)
  | n + 1, j, p, s =>
    match plainRead s false noMmio lane (ltab + 32 * j) 1 32 with
    | (s, .val x) =>
      let i := coord j
      let extent := x / 2 ^ 128 % 2 ^ 32
      let pos := x % 2 ^ 64
      let crd := x / 2 ^ 64 % 2 ^ 64
      if i ≥ extent then (s, .absent)
      else if !bitAt x 160 then walkLevels lane ltab coord n (j + 1) ((p * extent + i) % 2 ^ 64) s
      else match plainRead s false noMmio lane (pos + 4 * p) 4 4 with
        | (s, .val lo) =>
          match plainRead s false noMmio lane (pos + 4 * (p + 1)) 4 4 with
          | (s, .val hi) =>
            match findCrd lane crd i (hi - lo) lo s with
            | (s, r, .val _) =>
              match crdFound s lane i lo (peekCrds s lane crd (hi - lo) lo) r with
              | some q => walkLevels lane ltab coord n (j + 1) q s
              | none => (s, .absent)
            | (s, _, g) => (s, .stop g)
          | (s, g) => (s, .stop g)
        | (s, g) => (s, .stop g)
    | (s, g) => (s, .stop g)

/-- A lane's walk over the whole handle. -/
def walkLane (h : Handle) (a : Operand) (lane : Nat) (s : State) : State × Walked :=
  match a with
  | .v n => walkLevels lane h.ltab (fun j => (rdV s (n.toNat + j) lane).toNat) (h.rank + 1) 0 0 s
  | _ => (s, .absent)
/-- The walks of several lanes, in ascending order. -/
def walkLanes (h : Handle) (a : Operand) : List Nat → State → State × List (Nat × Walked)
  | [], s => (s, [])
  | l :: t, s =>
    let r := walkLane h a l s
    let q := walkLanes h a t r.1
    (q.1, (l, r.2) :: q.2)

/-- The element's address, its index within its block or byte, and the bytes accessed (R287). -/
def elemAt (h : Handle) (p : Nat) : Nat × Nat :=
  if h.sdb then let c := h.ecount.getD 62; ((h.vbase + 64 * (p / c)) % 2 ^ 64, p % c)
  else if h.ety == 14#4 then ((h.vbase + p / 2) % 2 ^ 64, p % 2)
  else ((h.vbase + p * (tyBits h.ety / 8)) % 2 ^ 64, 0)

/-- What stops the lanes' reads, none where nothing does: a misaligned address first, then what a read waits for, then the
fault of R259. -/
def gatherWalks (s : State) (refused : List Nat) (ws : List (Nat × Walked)) : Option Eff :=
  let stops := ws.filterMap fun w => match w.2 with | .stop g => some (w.1, g) | _ => none
  let fs := stops.filterMap fun g => match g.2 with | .fault k sub x => some (g.1, k, sub, x) | _ => none
  let trap (f : Nat × Nat × Nat × Nat) : Eff :=
    .trap { cause := f.2.1, sub := f.2.2.1, addr := addrW f.2.2.2,
            mask := Mask.ofLanes ((fs.filter fun g => g.2.1 == f.2.1).map (·.1)) }
  match fs.find? fun f => f.2.1 == 7 with
  | some f => some (trap f)
  | none =>
    match stops.findSome? fun g => match g.2 with | .miss va => some va | _ => none with
    | some va => some (.walk (walkFor s.wave.die s.wave.ctx va (wantOf s true false refused)) s.wave.cur.held)
    | none => if stops.any fun g => g.2 == .waits then some (.hold []) else fs.head?.map trap

/-- Is a 64-bit element's register operand an even pair inside the wave's registers (R286)? -/
def pairOk (s : State) (ety : BitVec 4) (o : Operand) : Bool :=
  tyRegs ety == 1 || (match o with
    | .v n => n.toNat % 2 == 0 && n.toNat + 2 ≤ s.wave.regs
    | .s n => n.toNat % 2 == 0
    | _ => true)
/-- Does a tensor instruction name what its handle allows (R286): its coordinates inside the wave's registers, an even pair for
a 64-bit element, a handle without reserved values? With no active lane nothing is raised (R261). -/
def tensorBad (s : State) (f : RF) (h : Handle) (o : Operand) : Bool :=
  actOf s f != 0#64 && (!h.ok || !pairOk s h.ety o ||
    (match f.a with | .v n => !regOk s (.v (n.toNat + h.rank)) | _ => true))

/-- The bits of the absent lanes go into k[KM]; those of the lanes with an element are cleared (R288). R289 says of TST only that
a bit is set: the model clears the others there too (assumption 17). -/
def wrAbsent (x : TensorX) (act : Mask) (absent : Nat → Bool) (s : State) : State := wrMaskBits s x.km.toNat act absent

/-- TLD (R286 to R288): a lane without an element receives 0. -/
def tldR (f : RF) (x : TensorX) (s : State) : Eff :=
  let act := actOf s f
  let h := readHandle s x.hnd.toNat
  if tensorBad s f h (.v f.d) then .trap { cause := 1, sub := 2, mask := act }
  else
    let (s, ws) := walkLanes h f.a (Mask.lanes act) s
    match gatherWalks s noMmio ws with
    | some e => e
    | none =>
      let hits := ws.filterMap fun w => match w.2 with | .elem p => some (w.1, elemAt h p) | _ => none
      let gone := (ws.filter fun w => w.2 == .absent).map (·.1)
      let kind : AccKind := .tload h.ety.toNat h.sdb (h.ecount.getD 62)
      let n := accSize kind
      let nd := tyRegs h.ety
      let zero (s : State) : State :=
        wrAbsent x act (gone.contains ·) { s with wave := s.wave.setLanes f.d.toNat (fun _ => List.replicate nd 0) gone }
      match probeIssue s false n n (wantOf s true false noMmio) (hits.map fun w => (w.1, w.2.1)) fun keys =>
          addPending (newPending s kind 0 false f.d.toNat nd (laneAccs keys (fun _ => 0) fun l =>
            ((hits.find? fun w => w.1 == l).map (·.2.2)).getD 0)) s with
      | .next t => .next (zero t)
      | e => e

/-- The value TST stores (R289): an inline operand is read as the element's TYPE, or as f32 where the element is
converted from f32. -/
def tstVal (s : State) (ety : BitVec 4) (o : Operand) (l : Nat) : Nat :=
  match ety.toNat with
  | 8 => roundF f16 0 (decodeF f32 (srcBits s 10 o l))
  | 9 => roundF bf16 0 (decodeF f32 (srcBits s 10 o l))
  | 12 => roundF e4m3 0 (decodeF f32 (srcBits s 10 o l))
  | 13 => roundF e5m2 0 (decodeF f32 (srcBits s 10 o l))
  | 14 => roundF e2m1 0 (decodeF f32 (srcBits s 10 o l))
  | 15 => toDs8 (decodeF f32 (srcBits s 10 o l))
  | _ => srcBits s ety o l

/-- TST (R286, R287, R289): lanes without an element, and every lane of a block tensor, write nothing. R289's read-modify-write
of an e2m1 element's byte is no atomic of R105 in the model: only MMIO refuses it (assumption 17). -/
def tstR (f : RF) (x : TensorX) (s : State) : Eff :=
  let act := actOf s f
  let h := readHandle s x.hnd.toNat
  if tensorBad s f h f.b then .trap { cause := 1, sub := 2, mask := act }
  else
    let (s, ws) := walkLanes h f.a (Mask.lanes act) s
    match gatherWalks s noMmio ws with
    | some e => e
    | none =>
      let hits := if h.sdb then [] else ws.filterMap fun w => match w.2 with | .elem p => some (w.1, elemAt h p) | _ => none
      let absent (l : Nat) : Bool := !(hits.any fun w => w.1 == l)
      let half := h.ety == 14#4
      let n := if half then 1 else tyBits h.ety / 8
      let kind : AccKind := if half then .tstore4 else .store n
      match probeIssue s false n n { wantOf s half true noMmio with store := true } (hits.map fun w => (w.1, w.2.1)) fun keys =>
          addPending (newPending s kind 0 false 0 0 (laneAccs keys (tstVal s h.ety f.b) fun l =>
            ((hits.find? fun w => w.1 == l).map (·.2.2)).getD 0)) s with
      | .next t => .next (wrAbsent x act absent t)
      | e => e

/-- The handle and word HSET and HGET name (R285). -/
def handleOf (o : Operand) : Nat × Nat :=
  match o with
  | .imm n => (n.toNat % 16, n.toNat / 16)
  | _ => (0, 0)
/-- HSET and HGET (R285). -/
def hsetR (f : RF) (s : State) : State :=
  let (h, w) := handleOf f.a
  wrH s h w (BitVec.ofNat 32 (src32 s f.b 0))
def hgetR (f : RF) (s : State) : State :=
  let (h, w) := handleOf f.a
  wrS s f.d.toNat (rdH s h w)

def execTld (f : RF) (x : TensorX) (s : State) : Out := issueMem (.tld f x) s (tldR f x)
def execTst (f : RF) (x : TensorX) (s : State) : Out := issueMem (.tst f x) s (tstR f x)
def execHset (f : RF) (s : State) : Out := issue (.hset f) s fun s => .next (hsetR f s)
def execHget (f : RF) (s : State) : Out := issue (.hget f) s fun s => .next (hgetR f s)

end Sys2Proof.Machine
end

