-- ==== Sys2Proof/Machine/Texture.lean ====
section
/-! DEFINITION. Texture units: images, samplers, TEX, TEXG and TEXQ (R469 to R479). -/
namespace Sys2Proof.Machine
open Sys2Proof

/-! ### Descriptors (R470 to R472) -/

/-- An image (Table 16.8). -/
structure Img where
  base : Nat
  w : Nat
  h : Nat
  pitch : Nat
  fmt : Nat
  levels : Nat
deriving DecidableEq, Repr, Inhabited

/-- E of Table 16.9. -/
def texelSize (fmt : Nat) : Nat := [1, 4, 2, 8, 2, 8, 4, 16].getD fmt 1
/-- The image of a descriptor's 32 bytes, as a number. -/
def imgOf (x : Nat) : Img :=
  { base := extend52 (bitsOf x 51 0), w := bitsOf x 79 64 + 1, h := bitsOf x 95 80 + 1, pitch := bitsOf x 127 96, fmt := bitsOf x 131 128,
    levels := bitsOf x 135 132 }
/-- No reserved value or field. -/
def imgClean (x : Nat) : Bool :=
  let g := imgOf x
  bitsOf x 63 52 == 0 && g.base % 64 == 0 && g.pitch % 64 == 0 && g.w * texelSize g.fmt ≤ g.pitch && g.fmt < 8 && g.levels != 0 &&
    bitsOf x 159 136 == 0 && bitsOf x 255 160 == 0
/-- The sampler's fields (Table 16.10): LODBIAS, NORM, ADDRU, ADDRV, MIP, FILTER. -/
def smpClean (x : Nat) : Bool := bitsOf x 127 32 == 0 && bitsOf x 15 9 == 0 && bitsOf x 3 2 != 3 && bitsOf x 1 0 != 3
def smpBias (x : Nat) : Int := sextN (bitsOf x 31 16) 16
def smpNorm (x : Nat) : Bool := bitAt x 8
def smpU (x : Nat) : Nat := bitsOf x 5 4
def smpV (x : Nat) : Nat := bitsOf x 7 6
def smpMip (x : Nat) : Nat := bitsOf x 3 2
def smpFilter (x : Nat) : Nat := bitsOf x 1 0

/-- A level: base, pitch, width, height. -/
def imgLevel (g : Img) : Nat → Nat × Nat × Nat × Nat
  | 0 => (g.base, g.pitch, g.w, g.h)
  | m + 1 =>
    let l := imgLevel g m
    let w := max 1 (g.w / 2 ^ (m + 1))
    (l.1 + l.2.1 * l.2.2.2, roundUp (w * texelSize g.fmt) 64, w, max 1 (g.h / 2 ^ (m + 1)))

/-! ### f32 operations under RNE, without flushing (R475) -/

def tAdd (a b : Nat) : Nat := roundF f32 0 ((decodeF f32 a).add false (decodeF f32 b))
def tSub (a b : Nat) : Nat := roundF f32 0 ((decodeF f32 a).add false (decodeF f32 b).neg)
def tMul (a b : Nat) : Nat := roundF f32 0 ((decodeF f32 a).mul (decodeF f32 b))
def tFma (a b c : Nat) : Nat := roundF f32 0 (((decodeF f32 a).mul (decodeF f32 b)).add false (decodeF f32 c))
/-- lerp(a, b, w). -/
def tLerp (a b w : Nat) : Nat := tFma w (tSub b a) a
/-- An integer scaled by 2^-k, as f32. -/
def tFix (x : Int) (k : Nat) : Nat := roundF f32 0 ((XVal.ofInt x).scale (-(k : Int)))
/-- The canonical NaN of f32. -/
def tNan : Nat := 0x7FC00000
/-- 1.0. -/
def tOne : Nat := 0x3F800000

/-! ### Texels (R471) -/

/-- round_f32(n / d). -/
def unorm (n d : Nat) : Nat := if n == 0 then 0 else roundF f32 0 (quotX false n 0 d 0)
/-- A channel's value. -/
def channel (fmt x : Nat) : Nat :=
  match fmt / 2 with
  | 0 => unorm x 255
  | 1 => unorm x 65535
  | 2 => roundF f32 0 (decodeF f16 x)
  | _ => if (decodeF f32 x).isNan then tNan else x % 2 ^ 32
/-- A texel's four channels. -/
def texel (fmt : Nat) (b : List Byte) : List Nat :=
  let n := if fmt / 2 == 0 then 1 else if fmt / 2 == 3 then 4 else 2
  let ch (i : Nat) : Nat := channel fmt (bytesAt b (n * i) n)
  if fmt % 2 == 1 then [ch 0, ch 1, ch 2, ch 3] else [ch 0, 0, 0, tOne]

/-! ### Coordinates (R474) -/

/-- Saturates to i32. -/
def satI32 (x : Int) : Int := max (-(2 ^ 31 : Int)) (min (2 ^ 31 - 1) x)
/-- rne(x * 256 + k) of a value that is not NaN, saturated. -/
def fixed256 (x : XVal) (k : Int) : Int :=
  match x with
  | .inf n => if n then -(2 ^ 31 : Int) else 2 ^ 31 - 1
  | x => satI32 (toIntR 0 ((x.scale 8).add false (.ofInt k)))
/-- p of a coordinate on an axis of `n` texels. -/
def coordP (norm : Bool) (n u : Nat) : Int :=
  fixed256 ((decodeF f32 u).mul (.ofInt (if norm then (n : Int) else 1))) (-128)
/-- A texel index under an address mode: none for a border texel. -/
def texIndex (mode n : Nat) (i : Int) : Option Nat :=
  match mode with
  | 0 => some (min (max i 0) ((n : Int) - 1)).toNat
  | 1 => some (i % n).toNat
  | 2 => (let k := (i % (2 * n)).toNat; some (if k < n then k else 2 * n - 1 - k))
  | _ => if 0 ≤ i && i < n then some i.toNat else none

/-- The address of a texel of a level: none for the border. -/
def texelAddr (g : Img) (smp m : Nat) (x y : Int) : Option Nat :=
  let l := imgLevel g m
  match texIndex (smpU smp) l.2.2.1 x, texIndex (smpV smp) l.2.2.2 y with
  | some i, some j => some ((l.1 + j * l.2.1 + i * texelSize g.fmt) % 2 ^ 64)
  | _, _ => none

/-- The taps of a sample at a level, for coordinates that are not NaN. -/
def texTaps (g : Img) (smp u v m : Nat) : List (Int × Int) :=
  let l := imgLevel g m
  let px := coordP (smpNorm smp) l.2.2.1 u
  let py := coordP (smpNorm smp) l.2.2.2 v
  let x := px / 256
  let y := py / 256
  match smpFilter smp with
  | 0 => [((px + 128) / 256, (py + 128) / 256)]
  | 1 => [(x, y), (x + 1, y), (x, y + 1), (x + 1, y + 1)]
  | _ => [y - 1, y, y + 1, y + 2].flatMap fun j => [(x - 1, j), (x, j), (x + 1, j), (x + 2, j)]

/-! ### Filters (R475, R476) -/

/-- The Catmull-Rom weights of a fraction. -/
def cubicW (f : Int) : List Nat :=
  [-f ^ 3 + 512 * f ^ 2 - 65536 * f, 3 * f ^ 3 - 1280 * f ^ 2 + 2 ^ 25, -3 * f ^ 3 + 1024 * f ^ 2 + 65536 * f,
   f ^ 3 - 256 * f ^ 2].map fun n => tFix n 25
/-- The weighted sum of four values, in order. -/
def cubicSum (w t : List Nat) : Nat :=
  let at_ (l : List Nat) (i : Nat) : Nat := l.getD i 0
  [1, 2, 3].foldl (fun q i => tFma (at_ w i) (at_ t i) q) (tMul (at_ w 0) (at_ t 0))
/-- A filter over one channel of the taps, in the order of texTaps. -/
def texFilter (filter : Nat) (fx fy : Int) (t : List Nat) : Nat :=
  let at_ (i : Nat) : Nat := t.getD i 0
  match filter with
  | 0 => at_ 0
  | 1 => tLerp (tLerp (at_ 0) (at_ 1) (tFix fx 8)) (tLerp (at_ 2) (at_ 3) (tFix fx 8)) (tFix fy 8)
  | _ => cubicSum (cubicW fy) ((List.range 4).map fun (k : Nat) => cubicSum (cubicW fx) ((t.drop (4 * k)).take 4))
/-- A sample at a level; `rd` gives a texel's channels. -/
def texSample (g : Img) (smp u v m : Nat) (rd : Int → Int → List Nat) : List Nat :=
  let l := imgLevel g m
  let fx := coordP (smpNorm smp) l.2.2.1 u % 256
  let fy := coordP (smpNorm smp) l.2.2.2 v % 256
  let ts := (texTaps g smp u v m).map fun p => rd p.1 p.2
  (List.range 4).map fun (c : Nat) => texFilter (smpFilter smp) fx fy (ts.map fun t => t.getD c 0)

/-! ### Levels (R477) -/

/-- λ256 after LODBIAS and the clamp. -/
def lambdaClamp (g : Img) (smp : Nat) (x : Int) : Nat := (max 0 (min (256 * ((g.levels : Int) - 1)) (x + smpBias smp))).toNat
/-- TEX's λ256. -/
def lambdaTex (lod : Nat) : Int := if (decodeF f32 lod).isNan then 0 else fixed256 (decodeF f32 lod) 0
/-- rne(256 log2(1 + m/256)): 512 log2(1 + m/256) lies between an odd number and the next. -/
def log2Fix (m : Nat) : Nat := (Nat.log2 ((256 + m) ^ 512) + 1 - 4096) / 2
/-- λ256 of a quad's q2. -/
def lambdaOf (q2 : Nat) : Int :=
  let e := bitsOf q2 30 23
  if e == 255 then 32767
  else if e == 0 then -32768
  else (256 * ((e : Int) - 127) + log2Fix (bitsOf q2 22 15)) / 2
/-- TEXG's λ256 from u and v of the quad's first three lanes. -/
def lambdaTexg (g : Img) (smp u0 u1 u2 v0 v1 v2 : Nat) : Int :=
  let sx := if smpNorm smp then roundF f32 0 (.ofInt g.w) else tOne
  let sy := if smpNorm smp then roundF f32 0 (.ofInt g.h) else tOne
  let ax := tMul (tSub u1 u0) sx
  let bx := tMul (tSub v1 v0) sy
  let ay := tMul (tSub u2 u0) sx
  let by_ := tMul (tSub v2 v0) sy
  lambdaOf (minMaxF f32 true false (tFma ax ax (tMul bx bx)) (tFma ay ay (tMul by_ by_)))
/-- The levels a λ256 samples, and g of MIP 10. -/
def texLevels (g : Img) (smp lam : Nat) : List Nat × Nat :=
  match smpMip smp with
  | 0 => ([0], 0)
  | 1 => ([min ((lam + 128) / 256) (g.levels - 1)], 0)
  | _ => if lam % 256 == 0 then ([lam / 256], 0) else ([lam / 256, lam / 256 + 1], lam % 256)

/-- A lane's result: NaN coordinates read nothing (R474). -/
def texLane (g : Img) (smp u v lam : Nat) (rd : Nat → List Byte) : List Nat :=
  if (decodeF f32 u).isNan || (decodeF f32 v).isNan then List.replicate 4 tNan
  else
    let (ms, f) := texLevels g smp lam
    let rs := ms.map fun m => texSample g smp u v m fun x y => match texelAddr g smp m x y with
      | some a => texel g.fmt (rd a)
      | none => [0, 0, 0, 0]
    match rs with
    | [a, b] => (List.range 4).map fun (c : Nat) => tLerp (a.getD c 0) (b.getD c 0) (tFix f 8)
    | a :: _ => a
    | [] => []
/-- The addresses of the texels a lane reads, ascending. -/
def texAddrs (g : Img) (smp u v lam : Nat) : List Nat :=
  if (decodeF f32 u).isNan || (decodeF f32 v).isNan then []
  else (sortBy (fun a b => a ≤ b) ((texLevels g smp lam).1.flatMap fun m =>
    (texTaps g smp u v m).filterMap fun p => texelAddr g smp m p.1 p.2)).eraseDups

/-! ### The probe stage (R473) -/

/-- The texture unit of a core (R15). -/
def texUnit (core : Nat) : Nat := if 16 ≤ core then core - 16 else core / 4
/-- The requests in the queue of the wave's texture unit. -/
def texQueued (s : State) : Nat :=
  (s.pend.filter fun p => p.kind == .texture && p.die == s.wave.die && texUnit p.core == texUnit s.wave.core).length
/-- Is its queue full (R17, R469)? -/
def texFull (s : State) : Bool := 16 ≤ texQueued s
/-- Is an access still to be performed that the reads must follow (R469, R122)? -/
def texWaits (s : State) (scalar : Bool) (act : Mask) : Bool :=
  s.pend.any fun q => isAccess q.kind && !q.thread && ((q.ctx == s.wave.ctx && q.id < s.wave.fence) ||
    (q.uid == s.wave.uid && q.scalar == scalar && (scalar || q.lanes.any fun a => Mask.has act a.lane)))
/-- Reads descriptors at the probe stage: address, alignment, size, and which bytes are clean. Alignment comes first, then
translation, then the values (R473). -/
def readDescs (s : State) (scalar : Bool) (act : Mask) (ds : List (Nat × Nat × (Nat → Bool)))
    (go : State → List Nat → Eff) : Eff :=
  let m := if scalar then s.wave.cur.mask else act
  let l := (Mask.first act).getD 0
  let (s, rs) := plainReads scalar [] (ds.map fun d => (l, d.1, d.2.1)) s
  let gs := (ds.zip rs).map fun d => (d.1.1, d.1.2.2, d.2)
  match ds.find? fun d => d.1 % d.2.1 != 0 with
  | some d => .trap { cause := 7, sub := 0, mask := m, addr := addrW d.1 }
  | none =>
    match gs.findSome? fun g => match g.2.2 with | .miss va => some va | _ => none with
    | some va => .walk (walkFor s.wave.die s.wave.ctx va (wantOf s true false [])) s.wave.cur.held
    | none =>
      match gs.findSome? fun g => match g.2.2 with | .fault k b a => some (k, b, a) | _ => none with
      | some (k, b, a) => .trap { cause := k, sub := b, mask := m, addr := addrW a }
      | none =>
        if gs.any fun g => g.2.2 == .waits then .hold []
        else match gs.find? fun g => match g.2.2 with | .val x => !g.2.1 x | _ => true with
          | some g => .trap { cause := 1, sub := 2, mask := m, addr := addrW g.1 }
          | none => go s (gs.map fun g => match g.2.2 with | .val x => x | _ => 0)

/-- A coordinate that a quad's gradient takes from a lane, active or not; that of an exited lane is undefined (R202, R477). -/
def quadCoord (s : State) (o : Operand) (l : Nat) : Nat :=
  match o with
  | .v n => if s.wave.exited.has l then (Config.undefWord s.freeCtr l n.toNat).toNat else srcBits s 10 o l
  | o => srcBits s 10 o l
/-- A lane's λ256 for TEX or TEXG. -/
def laneLambda (s : State) (f : RF) (grad : Bool) (g : Img) (smp l : Nat) : Nat :=
  let u (j : Nat) : Nat := quadCoord s f.a (4 * (l / 4) + j)
  let v (j : Nat) : Nat := quadCoord s f.b (4 * (l / 4) + j)
  lambdaClamp g smp (if grad then lambdaTexg g smp (u 0) (u 1) (u 2) (v 0) (v 1) (v 2) else lambdaTex (srcBits s 10 f.c l))

/-- TEX and TEXG: the request holds the descriptors, then each lane's number, coordinates and λ256, and one entry per texel. -/
def texR (f : RF) (x : TexX) (grad : Bool) (s : State) : Eff :=
  let act := actOf s f
  if act == 0#64 then .next s
  else if texWaits s false act then .hold []
  else
    readDescs s false act [((rdS64 s x.img.toNat).toNat, 32, imgClean), ((rdS64 s x.smp.toNat).toNat, 16, smpClean)] fun s vals =>
      let img := vals.getD 0 0
      let smp := vals.getD 1 0
      let g := imgOf img
      let ls := (Mask.lanes act).map fun l => (l, srcBits s 10 f.a l, srcBits s 10 f.b l, laneLambda s f grad g smp l)
      let accs := ls.flatMap fun t => (texAddrs g smp t.2.1 t.2.2.1 t.2.2.2).map fun a => (t.1, a)
      match probe s s.wave.die s.wave.ctx (texelSize g.fmt) (wantOf s true false []) accs with
      | .miss va => .walk (walkFor s.wave.die s.wave.ctx va (wantOf s true false []))
          (hitsOf s s.wave.die s.wave.ctx (wantOf s true false []) (accs.map (·.2)) ++ s.wave.cur.held)
      | .fault k b m a => memTrap s false k b m a
      | .ok keys =>
        let p := newPending s .texture 0 false f.d.toNat 4 (laneAccs keys (fun _ => 0) (fun _ => 0))
        let p := { p with args := img :: smp :: ls.flatMap fun t => [t.1, t.2.1, t.2.2.1, t.2.2.2] }
        let s := markDst false f.d.toNat 4 act s
        .next { s with pend := s.pend ++ [p], nextId := s.nextId + 1 }

/-- TEXQ (R478): the value, which the unit writes later. -/
def texqVal (g : Img) (md level : Nat) : Nat :=
  match md with
  | 0 => if g.levels ≤ level then 0xFFFFFFFF else (let l := imgLevel g level; (l.2.2.1 - 1) + 65536 * (l.2.2.2 - 1))
  | 1 => g.levels
  | _ => g.fmt
/-- TEXQ. -/
def texqR (f : RF) (s : State) : Eff :=
  let level := src32 s f.b 0
  let base := match f.a with | .s n => (rdS64 s n.toNat).toNat | _ => 0
  if 15 < level then .trap { cause := 1, sub := 2, mask := s.wave.cur.mask }
  else if texWaits s true 0 then .hold []
  else
    readDescs s true 1#64 [(base, 32, imgClean)] fun s vals =>
      let p := { newPending s .texture 0 true f.d.toNat 1 [] with args := [texqVal (imgOf (vals.getD 0 0)) f.md.toNat level] }
      let s := markDst true f.d.toNat 1 0 s
      .next { s with pend := s.pend ++ [p], nextId := s.nextId + 1 }

/-! ### Completion -/

/-- The lanes of a request: number, u, v, λ256. -/
def texLanes : List Nat → List (Nat × Nat × Nat × Nat)
  | l :: u :: v :: m :: t => (l, u, v, m) :: texLanes t
  | _ => []
/-- The recalls that a request's texel reads make, through L2 as they go (R107, R469), and the routes they find lost (R490). -/
def texRecall (p : Pending) (n : Nat) (s : State) : State :=
  p.lanes.foldl (fun s a => recallBytes a.key n (laneLost p a s)) s
/-- The bytes of a texel that a lane of a request reads. -/
def texBytes (p : Pending) (n : Nat) (s : State) (l a : Nat) : List Byte :=
  match p.lanes.find? fun x => x.lane == l && x.va == a with
  | some x => cohRead s x.key n
  | none => List.replicate n 0
/-- A request's results. -/
def texDone (p : Pending) (s : State) : State :=
  let s := { s with pend := s.pend.filter fun q => q.id != p.id }
  if p.scalar then
    onAnyWave p.uid (fun w => Wave.fullReply p 0 (Wave.putReply p 0 [BitVec.ofNat 32 (p.args.headD 0)] w)) s
  else
    let g := imgOf (p.args.getD 0 0)
    let smp := p.args.getD 1 0
    let ls := texLanes (p.args.drop 2)
    let s := texRecall p (texelSize g.fmt) s
    let out := ls.map fun t => (t.1, texLane g smp t.2.1 t.2.2.1 t.2.2.2 (texBytes p (texelSize g.fmt) s t.1))
    onAnyWave p.uid (fun w =>
      let w := out.foldl (fun w t => Wave.putReply p t.1 (t.2.map (BitVec.ofNat 32)) w) w
      out.foldl (fun w t => Wave.fullReply p (t.1 / 4) w) w) s

def execTex (f : RF) (x : TexX) (s : State) : Out := issueEng texFull (.tex f x) s (texR f x false)
def execTexg (f : RF) (x : TexX) (s : State) : Out := issueEng texFull (.texg f x) s (texR f x true)
def execTexq (f : RF) (s : State) : Out := issueEng texFull (.texq f) s (texqR f)
/-- TEXTURE_COMPLETE (R473): after the wave's earlier requests to the unit (R16) the texels are read, once no copy owns their
bytes (R127), and D to D + 3 are written. A request that has issued completes at a halt as well (R479). -/
def execTextureComplete (id : Nat) (s : State) : Out :=
  match findPending s id with
  | some p =>
    if p.kind == .texture && inTurn s p (· == .texture) &&
        !(p.lanes.any fun a => copyOwns s a.key (texelSize (imgOf (p.args.headD 0)).fmt)) then .next (texDone p s)
    else .next s
  | none => .next s

end Sys2Proof.Machine
end

