-- ==== Sys2Proof/Machine/Control.lean ====
section
/-! DEFINITION. Control, barriers and special registers: opcodes 0x00 to 0x0B, 0x0F to 0x15 (R171 to R194), and the
sequencer's events (R154 to R160, R178, R182, R186, R187). -/
namespace Sys2Proof.Machine
open Sys2Proof

/-! ### Branches (R174 to R177) -/

/-- A signed word offset from the instruction (R32). -/
def offPc (s : State) (off : BitVec 32) : PC := pcOf s + off.signExtend 49
/-- Words, or units on an L-core, of a one-word instruction in its long form. -/
def longLen (isL : Bool) : Nat := if isL then 2 else 1
/-- The address after a branch: the next header's (R171). -/
def afterPc (s : State) (i : Instr) : PC := pcOf s + BitVec.ofNat 49 (instrLen s.wave.isL i)

/-- BRA in access code (Table 10.2): s[K] nonzero, inverted by KN; K = 0 is unconditional. -/
def braThread (f : BF) (s : State) : Eff :=
  if f.k == 0#4 || ((rdS s f.k.toNat != 0#32) != f.kn) then
    .jump (onThread (fun t => { t with pc := offPc s f.off, blk := none }) s)
  else .next s
/-- BRA (R174). -/
def braR (f : BF) (s0 s : State) : Eff :=
  if s.acc then braThread f s
  else
    let m := s.wave.cur.mask
    let t := activeOf s f.k f.kn
    let t := if f.bmod == 1#4 then (if t != 0#64 then m else 0#64)
             else if f.bmod == 2#4 then (if t == m then m else 0#64) else t
    branch [(t, offPc s f.off), (m &&& ~~~t, afterPc s (.bra f))] s0 s

/-- Puts an address into an ascending list without repeats. -/
def insertPc (p : PC) : List PC → List PC
  | [] => [p]
  | q :: t => if p.toNat < q.toNat then p :: q :: t else if p == q then q :: t else q :: insertPc p t
/-- The groups of R175: one per target address, ascending. -/
def groupsOf (ts : List (Nat × PC)) : List (Mask × PC) :=
  (ts.foldl (fun l t => insertPc t.2 l) []).map fun p => (Mask.ofLanes ((ts.filter fun t => t.2 == p).map (·.1)), p)
/-- Sends each active lane to its own target, the others to `fall`. -/
def branchLanes (act : Mask) (target : Nat → PC) (fall : PC) (s0 s : State) : Eff :=
  branch (groupsOf ((Mask.lanes s.wave.cur.mask).map fun l => (l, if Mask.has act l then target l else fall))) s0 s
/-- The 64-bit value of a v-pair or s-pair operand in a lane. -/
def pairVal (s : State) (o : Operand) (l : Nat) : W64 := BitVec.ofNat 64 (src64 s o l)

/-- BRX (R176). -/
def brxR (f : BF) (s0 s : State) : Eff :=
  let act := activeOf s f.k f.kn
  let ls := Mask.lanes act
  let (s, rs) := plainReads false [] (ls.map fun l => (l, (pairVal s f.a l).toNat, 4)) s
  let reads := ls.zip rs
  match gatherWalks s [] (reads.map fun r => (r.1, match r.2 with | .val x => Walked.elem x | g => .stop g)) with
  | some e => e
  | none =>
    let entry (l : Nat) : PC := match reads.find? fun r => r.1 == l with
      | some (_, .val x) => (BitVec.ofNat 32 x).signExtend 49
      | _ => 0
    branchLanes act (fun l => offPc s f.off + entry l) (afterPc s (.brx f)) s0 s

/-- CALL (R177). -/
def callR (f : BF) (s0 s : State) : Eff :=
  let act := activeOf s f.k f.kn
  let next := afterPc s (.call f)
  let link : W64 := 0#15 ++ next
  let linked := addHazards 0 act (dstsAt s (.call f)) (match f.a with
    | .v n => { s with wave := s.wave.setLanes n.toNat (fun _ => [lo32 link, hi32 link]) (Mask.lanes act) }
    | .s n => if act == 0#64 then s else wrS64 s n.toNat link
    | _ => s)
  branch [(act, offPc s f.off), (s.wave.cur.mask &&& ~~~act, next)] s0 linked

/-- RET (R177); `i` is the instruction as encoded, which gives its length. -/
def retR (i : Instr) (f : RF) (s0 s : State) : Eff :=
  branchLanes (actOf s f) (fun l => (pairVal s f.a l).extractLsb' 0 49) (afterPc s i) s0 s

/-! ### Rejoin (R148 to R155, R180) -/

/-- The present members of G(x) leave by timeout (R154). -/
def timeoutRj (cycle : Nat) (w : Wave) (key : PC × Bool) : Wave :=
  let ms := rjMembers w key.1 key.2
  if ms.isEmpty || ms.any fun y => y.stop then w else leaveRj cycle w key.1 ms

/-- The timeout an RJOIN sets (R151). -/
def rjDeadline (mode t : W32) : W32 :=
  let rjto : W32 := mode >>> 20
  if t != 0#32 then t else if rjto == 0#32 then 0xFFFFFFFF#32 else rjto * 256
/-- The timeout operand (R180). -/
def rjOperand (s : State) : Operand → W32
  | .s n => rdS s n.toNat
  | .imm n => n.signExtend 32
  | _ => 0

/-- The split in focus searches its records for rejoin point `x` (R150); `next` is the RJOIN's own length. -/
def arriveRj (x : PC) (t : W32) (s : State) : Eff :=
  let w := s.wave
  match w.cur.rj.dropWhile fun r => r.addr != x with
  | [] => .next s
  | r :: rest =>
    if r.late then .next (onCur (fun c => { c with rj := rest }) s)
    else
      let c := { w.cur with state := .rjwait, rj := r :: rest, deadline := rjDeadline w.mode t, cur := false }
      .jump { s with wave := { w with cur := c } }

/-- RJOIN (R148 to R151). -/
def rjoinR (f : BF) (s : State) : Eff :=
  let w := s.wave
  let x := rejoinPoint w.isL w.cur.blk w.cur.pc
  match pendingOf w w.cur.idx with
  | some d =>
    if x.isSome && d.rj == x then .jump (onFocus (stopPath s.cycle d) s)
    else match x with
      | some x => arriveRj x (rjOperand s f.a) s
      | none => .next s
  | none =>
    let s := onFocus takeHeld s
    match x with
    | none => .next s
    | some x => arriveRj x (rjOperand s f.a) s

/-! ### Barriers (R188 to R190) -/

/-- A team's barrier; one not yet used is at its launch values. -/
def findBar (t : Team) (b : Nat) : Bar :=
  (t.bars.find? fun x => x.b == b).getD { b := b, arr := 0, exp := 0, gen := 0, all := false, arrived := [], lanes := [] }
/-- Stores a barrier. -/
def putBar (x : Bar) (t : Team) : Team := { t with bars := x :: t.bars.filter fun y => y.b != x.b }
/-- Is the wave one of the team's with a lane that has not exited? -/
def liveOf (team : Nat) (w : Wave) : Bool := w.live && w.team == team && w.liveLanes != 0#64
/-- The team's waves with a lane that has not exited. -/
def liveWaves (s : State) (team : Nat) : List Wave := (allWaves s).filter (liveOf team)

/-- A split leaves BARWAIT for the next instruction (step 4 of Table 5.9). -/
def leaveBar (isL : Bool) (cycle n : Nat) (x : Split) : Split :=
  { x with state := .ready, bar := none, posted := none, nextIssue := max x.nextIssue (cycle + 1) }.goto isL
    (x.pc + BitVec.ofNat 49 n)
/-- A barrier's generation has changed: its waiters are released, and the team's later accesses follow its earlier ones
(R130, R189). -/
def releaseBar (team b : Nat) (gen : W32) (s : State) : State :=
  mapWaves (fun w => if !(w.live && w.team == team) then w else
    { w with fence := s.nextId }.mapSplits fun x => match x.state, x.bar with
      | .barwait, some (.bar b' tok) => if b' == b && tok != gen then leaveBar w.isL s.cycle (longLen w.isL) x else x
      | _, _ => x) s

/-- Stores a barrier of a team, completing it when enough waves have arrived. -/
def settleBar (team : Nat) (x : Bar) (s : State) : State :=
  if x.arr == x.exp && x.arr != 0 then
    let x := { x with gen := x.gen + 1, arr := 0, arrived := [] }
    releaseBar team x.b x.gen (onTeam team (putBar x) s)
  else onTeam team (putBar x) s

/-- A wave's arrival (R189): `n` is the count operand, `all` the number of live waves. -/
def waveArrive (x : Bar) (uid n all : Nat) : Bar :=
  let x := if x.arr == 0 then { x with exp := if n == 0 then all else n, all := n == 0 } else x
  { x with arr := x.arr + 1, arrived := uid :: x.arrived, lanes := x.lanes.filter fun r => r.1 != uid }

/-- The lanes of a wave that have arrived and are not yet counted. -/
def barLanes (x : Bar) (uid : Nat) : Mask := ((x.lanes.find? fun r => r.1 == uid).map (·.2.1)).getD 0

/-- The running lanes of the split in focus arrive (R189). -/
def arriveBar (b n : Nat) (s : State) : State :=
  match findTeam s s.wave.team with
  | none => s
  | some t =>
    let x := findBar t b
    let m := barLanes x s.wave.uid ||| s.wave.cur.mask
    if s.wave.liveLanes &&& ~~~m == 0#64 then
      settleBar t.id (waveArrive x s.wave.uid n (liveWaves s t.id).length) s
    else onTeam t.id (putBar { x with lanes := (s.wave.uid, m, n) :: x.lanes.filter fun r => r.1 != s.wave.uid }) s
/-- The generation of a barrier of the focus wave's team. -/
def barGen (s : State) (b : Nat) : W32 := ((findTeam s s.wave.team).map fun t => (findBar t b).gen).getD 0

/-- The checks of an arrival (R189): a count above 16, or a lane's second arrival. -/
def arriveCheck (b n : Nat) (s : State) : Option Eff :=
  if n > 16 then some (.trap { cause := 1, sub := 2, mask := s.wave.cur.mask })
  else if ((findTeam s s.wave.team).any fun t => barLanes (findBar t b) s.wave.uid &&& s.wave.cur.mask != 0#64) then some (.hold [])
  else none
/-- The barrier index operand. -/
def barIdx (s : State) (o : Operand) : Nat := src32 s o 0 % 16

/-- Waits until the barrier's generation differs from the token; with a pending deferral the path stops instead (R190). -/
def waitBar (b : Nat) (tok : W32) (posted : Bool) (s : State) : Eff :=
  match pendingOf s.wave s.wave.cur.idx with
  | some d => .jump (onFocus (stopPath s.cycle d)
      (onCur (fun c => { c with posted := if posted then some (b, tok) else none }) s))
  | none =>
    if barGen s b != tok then .next (onCur (fun c => { c with posted := none, cur := false }) s)
    else .jump (onCur (fun c => { c with state := .barwait, bar := some (.bar b tok), cur := false }) s)

/-- BAR. -/
def barR (f : RF) (s : State) : Eff :=
  let b := barIdx s f.a
  match s.wave.cur.posted with
  | some (b, tok) => waitBar b tok true s
  | none =>
    let n := src32 s f.b 0
    match arriveCheck b n s with
    | some e => e
    | none => waitBar b (barGen s b) true (arriveBar b n s)
/-- BARARV. -/
def bararvR (f : RF) (s : State) : Eff :=
  let b := barIdx s f.a
  let n := src32 s f.b 0
  match arriveCheck b n s with
  | some e => e
  | none => .next (wrS (arriveBar b n s) f.d.toNat (barGen s b))
/-- BARWT. -/
def barwtR (f : RF) (s : State) : Eff := waitBar (barIdx s f.a) (BitVec.ofNat 32 (src32 s f.b 0)) false s

/-- The exit of lanes of the wave in focus, at each barrier of its team (R182, R189): an arrival they complete, and an
expectation they lower. -/
def exitBars (s : State) : State :=
  match findTeam s s.wave.team with
  | none => s
  | some t =>
    let gone := s.wave.liveLanes == 0#64
    let uid := s.wave.uid
    let all := (liveWaves s t.id).length + if gone then 1 else 0
    t.bars.foldl (fun s x =>
      let m := barLanes x uid
      let n := ((x.lanes.find? fun r => r.1 == uid).map (·.2.2)).getD 0
      if m != 0#64 && s.wave.liveLanes &&& ~~~m == 0#64 then settleBar t.id (waveArrive x uid n all) s
      else if gone && x.all && x.arr != 0 && !x.arrived.contains uid then
        settleBar t.id { x with exp := x.exp - 1 } s
      else s) s

/-! ### REGROUP (R191, R192) -/

/-- What a wave waiting at a REGROUP asks for: PART, live mask, TYPE, D and key. -/
def regroupOf (w : Wave) : Option (BitVec 16 × Mask × Nat × Nat × Operand) :=
  match w.cur.bar with
  | some (.regroup p m t d k) => some (p, m, t, d, k)
  | _ => none
/-- A thread of a REGROUP: its wave, WAVEID, lane and key. -/
structure RegroupThread where
  uid : Nat
  waveId : Nat
  lane : Nat
  key : Int
deriving DecidableEq, Repr, Inhabited

/-- Stable insertion of a thread by its key. -/
def insertKey (x : RegroupThread) : List RegroupThread → List RegroupThread
  | [] => [x]
  | y :: t => if y.key ≤ x.key then y :: insertKey x t else x :: y :: t
/-- Insertion of a wave by its WAVEID. -/
def insertWave (x : Wave) : List Wave → List Wave
  | [] => [x]
  | y :: t => if y.waveId ≤ x.waveId then y :: insertWave x t else x :: y :: t

/-- The threads of a participant, in lane order, with their keys as TYPE reads them. -/
def regroupThreads (s : State) (w : Wave) : List RegroupThread :=
  match regroupOf w with
  | none => []
  | some (_, _, ty, _, k) =>
    let s := { s with wave := w }
    (Mask.lanes w.liveLanes).map fun l =>
      { uid := w.uid, waveId := w.waveId, lane := l, key := srcInt s (BitVec.ofNat 4 ty) k l }

/-- A participant after the move (R192): `src` gives the thread that comes to each of its positions. -/
def regroupWave (s : State) (ps : List Wave) (live : Mask) (d : Nat) (src : List (Nat × RegroupThread)) (w : Wave) : Wave :=
  let old (t : RegroupThread) (i : Nat) : W32 := match ps.find? fun p => p.uid == t.uid with
    | some p => rdV { s with wave := p } i t.lane
    | none => 0
  let regs := (List.range (min 64 w.regs)).filter fun i => live.getLsbD i
  let v := src.foldl (fun v x =>
    let (l, t) := x
    let w1 := regs.foldl (fun w i => w.setV i l (old t i)) v
    w1.setV d l (BitVec.ofNat 32 (64 * t.waveId + t.lane))) w
  let here := Mask.ofLanes (src.map (·.1))
  let dead := ((List.range w.regs).filter fun i => i != d && !(i < 64 && live.getLsbD i)).foldl
    (fun u i => Store.set 0 u i w.all) v.undef
  let n := hdrLen w.isL + hdrLen w.isL
  let c := { v.cur with mask := here, hazards := [] }
  { v with
    undef := dead, exited := w.all &&& ~~~here, fence := s.nextId,
    cur := leaveBar w.isL s.cycle n c, others := [] }

/-- The PART of a wave that waits at a REGROUP. -/
def partOf (w : Wave) : BitVec 16 := ((regroupOf w).map (·.1)).getD 0
/-- The waves of a team that have arrived at a REGROUP in which a wave takes part, that wave among them, by WAVEID: those its
PART names, and those whose PART names it. -/
def regroupers (s : State) (team : Nat) (w : Wave) : List Wave :=
  ((allWaves s).filter fun p => liveOf team p && (regroupOf p).isSome &&
      ((partOf w).getLsbD p.waveId || (partOf p).getLsbD w.waveId)).foldl
    (fun l w => insertWave w l) []
/-- The REGROUP of every arrived participant raises ILLOP (R191). -/
def failRegroup (ps : List Wave) (s : State) : State :=
  ps.foldl (fun s w =>
    let s := focusSplit w.uid w.cur.idx s
    let i := s.wave.cur.instr s.wave.isL
    onCur (fun c => { c with bar := none })
      (raiseSplit { cause := 1, sub := 2, mask := s.wave.cur.mask } ((i.map word0Of).getD 0) ((i.map word1Of).getD 0) s)) s
/-- The participants' lanes are re-sorted (R192); a participant left without lanes exits. -/
def doRegroup (ps : List Wave) (live : Mask) (s : State) : State :=
  let thr := (ps.flatMap (regroupThreads s)).foldl (fun l t => insertKey t l) []
  let pos := ps.flatMap fun w => (List.range w.width).map fun l => (w.uid, l)
  let at_ := pos.zip thr
  let s' := mapWaves (fun w => if !(w.live && ps.any fun p => p.uid == w.uid) then w else
    regroupWave s ps live (match regroupOf w with | some (_, _, _, d, _) => d | none => 0)
      ((at_.filter fun x => x.1.1 == w.uid).map fun x => (x.1.2, x.2)) w) s
  ps.foldl (fun s p =>
    let s := focusWave p.uid s
    if s.wave.liveLanes == 0#64 then exitBars s else s) s'
/-- The REGROUP that a waiting wave takes part in: it fails where the arrived participants differ, and completes when every
wave of PART waits at one or has exited (R191). A WAVEID of PART that the team does not have counts as exited, which the manual
does not say (assumption 15). -/
def tryRegroupOf (team uid : Nat) (s : State) : State :=
  match (findWave uid s).bind regroupOf, findWave uid s with
  | some (part, live, ty, _, _), some w =>
    let ps := regroupers s team w
    let same (p : Wave) : Bool := p.width == w.width && match regroupOf p with
      | some (q, m, t, _, _) => q == part && m == live && t == ty
      | none => false
    let here (id : Nat) : Bool := ps.any fun p => p.waveId == id
    let exists_ (id : Nat) : Bool := (liveWaves s team).any fun p => p.waveId == id
    if !ps.all same then failRegroup ps s
    else if (List.range 16).all fun id => !part.getLsbD id || here id || !exists_ id then doRegroup ps live s
    else s
  | _, _ => s
/-- Every REGROUP of a team that may now complete or fail. -/
def tryRegroup (team : Nat) (s : State) : State :=
  (((allWaves s).filter fun w => liveOf team w && (regroupOf w).isSome).map (·.uid)).foldl
    (fun s u => tryRegroupOf team u s) s

/-- REGROUP, after its forced fuse: the v-registers of the live mask are sources too (R53, R192). -/
def regroupR (f : RF) (x : RegroupX) (s : State) : Eff :=
  if !x.part.getLsbD s.wave.waveId then .trap { cause := 1, sub := 2, mask := s.wave.cur.mask }
  else
    let live := match f.b with | .mask n => rdK s n.toNat | _ => 0
    if (List.range (min 64 s.wave.regs)).any fun i => live.getLsbD i && emptyAny s (.v i) then .hold []
    else
    let c := { s.wave.cur with
      state := .barwait, bar := some (.regroup x.part live f.ty.toNat f.d.toNat f.a), cur := false, fused := false }
    .jump (tryRegroup s.wave.team (onCur (fun _ => c) s))

/-! ### Exit (R148, R149, R182) -/

/-- The split in focus has no running lane left: a deferral of its entry is loaded, or the entry is freed. -/
def emptied (cycle : Nat) (w : Wave) : Wave :=
  let own := w.defs.filter fun d => d.owner == w.cur.idx
  let next := (pendingOf w w.cur.idx).orElse fun _ => (own.find? fun d => d.h == w.cur.h).orElse fun _ =>
    (own.find? fun d => !d.held).orElse fun _ => own.head?
  match next with
  | some d => loadPath cycle d w
  | none => w.withSplits w.cur.idx w.splits

/-- EXIT (R182); in access code it ends the thread (Table 10.2). -/
def exitR (f : RF) (s : State) : Eff :=
  if s.acc then .jump (onThread (fun t => { t with done := true, blk := none }) s)
  else
    let act := actOf s f
    if act == 0#64 then .next s
    else
      let rest := s.wave.cur.mask &&& ~~~act
      let w := { s.wave with exited := s.wave.exited ||| act, cur := { s.wave.cur with mask := rest } }
      let team := w.team
      if rest != 0#64 then
        .next (focusWave w.uid (tryRegroup team (exitBars { s with wave := w })))
      else .jump (tryRegroup team (exitBars { s with wave := emptied s.cycle w }))

/-! ### Breakpoint, trap, sleep and waiting on memory (R178, R183, R185 to R187) -/

/-- BKPT. -/
def bkptR (f : IF) (s : State) : Eff :=
  let act := activeOf s f.k f.kn
  if act == 0#64 then .next s else .trap { cause := 5, sub := 1, mask := act }
/-- TRAP. -/
def trapR (f : IF) (s : State) : Eff :=
  let act := activeOf s f.k f.kn
  if act == 0#64 then .next s else .trap { cause := 6, sub := (f.imm.extractLsb' 0 8).toNat, mask := act }
/-- YIELD. -/
def yieldR (s : State) : Eff := .next (if s.acc then s else onCur (fun c => { c with cur := false }) s)
/-- SLEEP. -/
def sleepR (f : IF) (s : State) : Eff :=
  if f.imm == 0#22 then yieldR s
  else .next (onCur (fun c => { c with state := .sleep, sleep := f.imm.toNat, cur := false }) s)

/-- WAITMEM: its addresses are translated, and the split sleeps until every lane has latched. -/
def waitmemR (f : MF) (s : State) : Eff :=
  let n := accSize (.load f.mty.toNat)
  let accs := (mLanes s f).map fun l => (l, mEa s f l)
  if accs.isEmpty then .next s
  else
    let bad := accs.filter fun a => a.2 % n != 0
    if !bad.isEmpty then memTrap s f.sc 7 0 (Mask.ofLanes (bad.map (·.1))) ((bad.map (·.2)).headD 0)
    else match probe s s.wave.die s.wave.ctx n (wantOf s true false []) accs with
      | .miss va => .hold [walkFor s.wave.die s.wave.ctx va (wantOf s true false [])]
      | .fault k sub m a => memTrap s f.sc k sub m a
      | .ok keys =>
        let wm : WaitMem := { lanes := laneAccs keys (fun l => mData s f l) fun _ => 0, size := n, scalar := f.sc }
        .jump (onCur (fun c => { c with state := .sleep, sleep := 0, waitmem := some wm, cur := false, held := [] }) s)

/-! ### Special registers (R48, R49, R193, R194) -/

/-- The copy-tag completion bitmap of a core, as a wave of a team reads it (R320). -/
def tagsOf (s : State) (die core team : Nat) : W64 :=
  Mask.ofLanes ((s.tags.filter fun t => t.die == die && t.core == core && t.team == some team && t.state == .set).map (·.tag))
/-- The half of a 64-bit register that an index names. -/
def halfOf (hi : Bool) (x : W64) : W32 := if hi then hi32 x else lo32 x
/-- CLOCK. -/
def clockW (s : State) : W64 := BitVec.ofNat 64 s.clock
/-- The latched half of CLOCK of the executing split or thread. -/
def clockLatch (s : State) : Option W32 := if s.acc then s.wave.thread.bind (·.clockHi) else s.wave.cur.clockHi
/-- Latches or drops the high half. -/
def setLatch (x : Option W32) (s : State) : State :=
  if s.acc then onThread (fun t => { t with clockHi := x }) s else onCur (fun c => { c with clockHi := x }) s

/-- The value of a special register in a lane (Table 2.9); in access code those of splits and traps read as zero. -/
def specVal (s : State) (idx l : Nat) : W32 :=
  let w := s.wave
  let own (x : W32) : W32 := if s.acc then 0 else x
  match idx with
  | 0x00 => BitVec.ofNat 32 l
  | 0x01 => BitVec.ofNat 32 w.waveId
  | 0x02 => BitVec.ofNat 32 w.width
  | 0x03 => own (BitVec.ofNat 32 w.cur.idx)
  | 0x04 => own (lo32 w.cur.mask)
  | 0x05 => own (hi32 w.cur.mask)
  | 0x06 => BitVec.ofNat 32 (((findTeam s w.team).map (·.index)).getD 0)
  | 0x07 => BitVec.ofNat 32 (((findGrid s w.grid).map (·.gid)).getD 0)
  | 0x08 => BitVec.ofNat 32 (w.core + 256 * w.sub)
  | 0x09 => BitVec.ofNat 32 w.die
  | 0x0A => lo32 (tagsOf s w.die w.core w.team)
  | 0x0B => hi32 (tagsOf s w.die w.core w.team)
  | 0x0C => w.mode
  | 0x0D => own w.cur.lf
  | 0x0E => lo32 (clockW s)
  | 0x0F => (clockLatch s).getD (hi32 (clockW s))
  | 0x10 => own w.tCause
  | 0x11 => own (lo32 w.tPc)
  | 0x12 => own (hi32 w.tPc)
  | 0x13 => own (lo32 w.tPc2)
  | 0x14 => own (hi32 w.tPc2)
  | 0x15 => own (lo32 w.tWord0)
  | 0x16 => own (hi32 w.tWord0)
  | 0x17 => own (lo32 w.tWord1)
  | 0x18 => own (hi32 w.tWord1)
  | 0x19 => own (lo32 w.tMask)
  | 0x1A => own (hi32 w.tMask)
  | 0x1B => own (lo32 w.tAddr)
  | 0x1C => own (hi32 w.tAddr)
  | _ => 0

/-- SRD. Of CLOCK's low half read by a vector form with an empty active set the manual says only that no register is written: the
model neither latches the high half nor drops an earlier latch (assumption 15). -/
def srdR (f : RF) (s : State) : Eff :=
  let i := specIdx f.a
  let t := wrDst f (fun l => [specVal s i l]) s
  .next (if !f.sc && actOf s f == 0#64 then t
    else if i == 0x0E then setLatch (some (hi32 (clockW s))) t
    else if i == 0x0F then setLatch none t else t)

/-- MODE's fields that a program may write (Table 2.10). -/
def modeWritable : W32 := 0xFFF0001C#32
/-- A word written over one half of a 64-bit register. -/
def setHalf (hi : Bool) (x : W64) (v : W32) : W64 := if hi then v ++ lo32 x else hi32 x ++ v
/-- SWR; MODE's new value is in force from the next sub-core cycle on. -/
def swrR (f : RF) (s : State) : Eff :=
  let v : W32 := match f.b with | .s n => rdS s n.toNat | .imm n => n.signExtend 32 | _ => 0
  .next (match specIdx f.a with
    | 0x0C => onFocus (fun w => { w with modeNext := some ((w.mode &&& ~~~modeWritable) ||| (v &&& modeWritable)) }) s
    | 0x0D => onCur (fun c => { c with lf := if v == 0#32 then 1#32 else v }) s
    | 0x11 => onFocus (fun w => { w with tPc := setHalf false w.tPc v }) s
    | 0x12 => onFocus (fun w => { w with tPc := setHalf true w.tPc v }) s
    | _ => s)

/-! ### Stuck waves and miss splits (R155, R159, R160) -/

/-- Is the wave in focus stuck (R155)? -/
def isStuck (s : State) : Bool :=
  let ws := s.wave.splits
  s.wave.live && ctxRuns s s.wave.ctx && !ws.isEmpty &&
  (ws.all fun x => !x.h && !x.stop && (x.state == .ffwait || (x.state == .rjwait && x.deadline == 0xFFFFFFFF#32))) &&
  completeGroups s.cycle s.wave == s.wave
/-- The split that raises a stuck wave's trap. A deferral held at an RJOIN counts as waiting, but is no split in RJWAIT, so
REJOINDEAD is for a split in that state alone: the manual does not say otherwise (assumption 15). -/
def stuckSplit (w : Wave) : Option Split :=
  match oldest (w.splits.filter fun x => x.state == .rjwait) with
  | some x => some x
  | none => oldest (w.splits.filter fun x => x.state == .ffwait)

/-- Opcodes that are never miss-split: memory instructions, QNT, DQNT, BRX, SPAWN, QPOP (R176, R254, R261, R304, R396). -/
def neverMiss (i : Instr) : Bool :=
  match expand i with
  | .qnt _ => true
  | .dqnt _ => true
  | .brx _ => true
  | .spawn _ _ => true
  | .qpop _ => true
  | i => let op := opOf (word0Of i); (0xA0 ≤ op && op ≤ 0xB0) || needsFuse i || (predOf i).2.2

/-- The v-registers that VRDX reads by its index in a quad (R205). -/
def indexedIn (s : State) (i : Instr) (q : Nat) : List Reg :=
  match i with
  | .vrdx f => ((Mask.lanes (actOf s f)).filter fun l => l / 4 == q).flatMap fun l =>
      (List.range (tyRegs f.ty)).map fun j => Reg.v (src32 s f.a l + j)
  | _ => []
/-- The quads of the split in focus that hold a running lane and every register that an instruction reads full. -/
def fullQuads (s : State) (i : Instr) : List Nat :=
  (quadsOf s.wave.cur.mask).filter fun q => ((srcsAt s i).map (·.1) ++ indexedIn s i q).all fun r => !emptyIn s q r
/-- Does R17 hold a vector command of an engine other than the memory unit: a full texture queue, or a full operand queue
(R303)? -/
def vectorHeld (s : State) (i : Instr) : Bool :=
  match i with
  | .tex _ _ => texFull s
  | .texg _ _ => texFull s
  | .qpush f => queueFull f s
  | _ => false
/-- The lanes that a miss split moves (R159, R160): none where its conditions do not hold in this cycle. A quad with a
lane in a deferral stays. -/
def missLanes (s : State) : Option Mask :=
  let w := s.wave
  match w.cur.instr w.isL with
  | none => none
  | some i0 =>
    let i := expand i0
    let rs := srcsAt s i
    let empties := rs.filter fun r => emptyAny s r.1
    let indexed := match i with | .vrdx f => empties.isEmpty && badIndexes f s == 0#64 && indexEmpty f s | _ => false
    let vOnly := empties.all fun r => !r.2 && (match r.1 with | .v _ => true | _ => false)
    if !w.mode.getLsbD 4 || !splitRuns s || (fateOf s i0).isSome || neverMiss i || (empties.isEmpty && !indexed) || !vOnly ||
        heldByHandler s i || vectorHeld s i || ((dstsAt s i).any fun r => emptyAny s r) then none
    else
      let held := ((w.defs.filter fun d => d.owner == w.cur.idx).foldl (fun m d => m ||| d.mask) 0)
      let qs := (fullQuads s i).filter fun q => (Mask.quads held).getLsbD (4 * q) == false
      let m := Mask.ofLanes (qs.flatMap fun q => (List.range 4).map fun j => 4 * q + j) &&& w.cur.mask
      if m == 0#64 then none else some m

/-- Makes a miss split (R160), after the results still outstanding (R54). -/
def doMissSplit (s : State) : State :=
  match missLanes s, freeEntry s with
  | some m, some e =>
    let c := s.wave.cur.settled
    let new : Split := { c with
      idx := e, mask := m, born := s.nextId, cur := false, readyCount := 0, missCount := 0, clockHi := none, sync := none,
      posted := none, held := [], inval := [], nextIssue := max c.nextIssue (s.cycle + 1) }
    { s with nextId := s.nextId + 1,
             wave := { s.wave with cur := { c with mask := c.mask &&& ~~~m, missCount := 0 }, others := new :: s.wave.others } }
  | _, _ => s

/-! ### Breakpoints and release (R167, R178, R182) -/

/-- Is the address one of the context's enabled breakpoint registers (Table 14.8)? -/
def bpListed (s : State) (isL : Bool) (pc : PC) : Bool :=
  (List.range 8).any fun j =>
    let r := descN s s.wave.ctx (0x200 + 8 * j) 8
    bitAt r 63 && bitAt r 62 == isL && bitsOf r 48 0 == pc.toNat
/-- Is the split in focus about to issue at a listed address with SKIP clear (R167)? -/
def bpHit (s : State) : Bool :=
  let c := s.wave.cur
  !s.acc && s.wave.live && c.mask != 0#64 && !c.skip && descN s s.wave.ctx 0x200 64 != 0 && bpListed s s.wave.isL c.pc &&
  (match c.instr s.wave.isL with
    | some i => (match issueCheck i s with | .go => true | .trap _ => true | _ => false)
    | none => false)

/-- Has the wave in focus exited, with nothing of its own left in flight (R182, R317)? Matrix instructions queued and not
begun are abandoned with it (R370). -/
def releasable (s : State) : Bool :=
  let w := s.wave
  w.live && w.liveLanes == 0#64 && w.streams.isEmpty && (w.mcmds.all fun c => c.step == 0) && !(s.pend.any fun p => p.uid == w.uid)
/-- The wave's slot, rows and scalar registers are freed. -/
def releaseWave (s : State) : State :=
  match s.bg with
  | [] => { s with wave := Wave.noWave }
  | w :: t => { s with wave := w, bg := t }

/-! ### The arms -/

def execNop (f : RF) (s : State) : Out := issue (.nop f) s fun s => .next s
def execBra (f : BF) (s : State) : Out := issue (.bra f) s (braR f s)
def execBrx (f : BF) (s : State) : Out := issue (.brx f) s (brxR f s)
def execCall (f : BF) (s : State) : Out := issue (.call f) s (callR f s)
def execRet (f : RF) (s : State) : Out := issue (.ret f) s (retR (.ret f) f s)
def execRjoin (f : BF) (s : State) : Out := issue (.rjoin f) s (rjoinR f)
/-- FUSE has no effect of its own once F(p) has completed (R157, R181). -/
def execFuse (f : RF) (s : State) : Out := issue (.fuse f) s fun s => .next s
def execExit (f : RF) (s : State) : Out := issue (.exit f) s (exitR f)
def execYield (f : RF) (s : State) : Out := issue (.yield f) s yieldR
def execSleep (f : IF) (s : State) : Out := issue (.sleep f) s (sleepR f)
def execBkpt (f : IF) (s : State) : Out := issue (.bkpt f) s (bkptR f)
def execTrap (f : IF) (s : State) : Out := issue (.trap f) s (trapR f)
def execRegroup (f : RF) (x : RegroupX) (s : State) : Out := issue (.regroup f x) s (regroupR f x)
def execBar (f : RF) (s : State) : Out := issue (.bar f) s (barR f)
def execBararv (f : RF) (s : State) : Out := issue (.bararv f) s (bararvR f)
def execBarwt (f : RF) (s : State) : Out := issue (.barwt f) s (barwtR f)
def execWaitmem (f : MF) (s : State) : Out := issue (.waitmem f) s (waitmemR f)
def execSrd (f : RF) (s : State) : Out := issue (.srd f) s (srdR f)
def execSwr (f : RF) (s : State) : Out := issue (.swr f) s (swrR f)

/-- REJOIN_TIMEOUT (R154). -/
def execRejoinTimeout (uid e : Nat) (s : State) : Out :=
  let s := focusSplit uid e s
  let c := s.wave.cur
  if c.idx == e && c.mask != 0#64 && c.state == .rjwait && c.deadline == 0#32 && ctxRuns s s.wave.ctx then
    match c.rj.head? with
    | some r => .next (onFocus (fun w => timeoutRj s.cycle w (r.addr, c.h)) s)
    | none => .next s
  else .next s

/-- FORCED_FUSE (R156). -/
def execForcedFuse (uid e : Nat) (s : State) : Out :=
  let s := { focusSplit uid e s with acc := false }
  match s.wave.cur.instr s.wave.isL with
  | some i =>
    if s.wave.cur.idx == e && splitRuns s && !s.wave.cur.fused && needsFuse (expand i) && (fateOf s i).isNone then .next (enterFuse s)
    else .next s
  | none => .next s

/-- STUCK_WAVE (R155). -/
def execStuckWave (uid : Nat) (s : State) : Out :=
  let s := { focusWave uid s with acc := false }
  if s.wave.uid == uid && isStuck s then
    match stuckSplit s.wave with
    | none => .next s
    | some x =>
      let s := focusSplit uid x.idx s
      let i := x.instr s.wave.isL
      let r : Raise := if x.state == .rjwait then { cause := 4, sub := 0, mask := x.mask } else { cause := 3, sub := 2, mask := x.mask }
      .next (raiseSplit r ((i.map word0Of).getD 0) ((i.map word1Of).getD 0) s)
  else .next s

/-- MISS_SPLIT (R159, R160). -/
def execMissSplit (uid e : Nat) (s : State) : Out :=
  let s := { focusSplit uid e s with acc := false }
  if s.wave.uid == uid && s.wave.cur.idx == e && 64 ≤ s.wave.cur.missCount then .next (doMissSplit s) else .next s

/-- HARDWARE_BREAKPOINT (R178). -/
def execHardwareBreakpoint (uid e : Nat) (s : State) : Out :=
  let s := { focusSplit uid e s with acc := false }
  if s.wave.uid == uid && s.wave.cur.idx == e && bpHit s then
    let i := s.wave.cur.instr s.wave.isL
    .next (raiseSplit { cause := 5, sub := 2, mask := s.wave.cur.mask } ((i.map word0Of).getD 0) ((i.map word1Of).getD 0) s)
  else .next s

/-- SLEEP_EXPIRY (R186). -/
def execSleepExpiry (uid e : Nat) (s : State) : Out :=
  let s := focusSplit uid e s
  let c := s.wave.cur
  if s.wave.uid == uid && c.idx == e && c.mask != 0#64 && c.state == .sleep && c.waitmem.isNone && c.sleep == 0 && !c.stop then
    .next (onCur (fun c => { c with state := .ready, nextIssue := max c.nextIssue (s.cycle + 1) }) s)
  else .next s

/-- WAITMEM_LATCH (R187): the lane reads its address once more, through the translation that holds now (R434). -/
def execWaitmemLatch (uid e lane : Nat) (s : State) : Out :=
  let s := { focusSplit uid e s with acc := false }
  let c := s.wave.cur
  match c.waitmem with
  | some m =>
    if s.wave.uid == uid && c.idx == e && c.state == .sleep && !c.stop && ctxRuns s s.wave.ctx then
      match m.lanes.find? fun a => a.lane == lane with
      | none => .next s
      | some a => match xlate 4 s s.wave.die s.wave.ctx a.va (wantOf s true false []) with
       | .miss => .next { s with agenda := walkFor s.wave.die s.wave.ctx a.va (wantOf s true false []) :: s.agenda }
       | .fault _ _ _ => .next s
       | .ok key =>
        if readWaits s m.scalar lane key m.size then .next s
        else
          let (s, b) := readAs s (some s.wave.team) a.va key m.size
          if natOfBytes b == a.val then .next s
          else
            let ls := m.lanes.filter fun x => x.lane != lane
            if ls.isEmpty then
              .next (onCur (fun c => { c with
                state := .ready, waitmem := none, nextIssue := max c.nextIssue (s.cycle + 1) }.goto s.wave.isL
                  (c.pc + BitVec.ofNat 49 (longLen s.wave.isL))) s)
            else .next (onCur (fun c => { c with waitmem := some { m with lanes := ls } }) s)
    else .next s
  | none => .next s

/-- WAVE_RELEASE (R182, R317). -/
def execWaveRelease (uid : Nat) (s : State) : Out :=
  let s := focusWave uid s
  if s.wave.uid == uid && releasable s then .next (releaseWave s) else .next s

end Sys2Proof.Machine
end

