-- ==== Sys2Proof/Machine/FloatAlu.lean ====
section
/-! DEFINITION. Floating point, conversions, packing and the quantiser, opcodes 0x70 to 0x87 (chapter 8, R232 to R254). -/
namespace Sys2Proof.Machine
open Sys2Proof

/-- A floating-point result of a TYPE, rounded under `rnd` and flushed (R236). -/
def resX (s : State) (ty : BitVec 4) (rnd : Nat) (x : XVal) : Nat := resF s.wave.mode.toNat ty.toNat rnd x
/-- The flushed bits of a source of a floating-point TYPE. -/
def srcFlushed (s : State) (ty : BitVec 4) (o : Operand) (l : Nat) : Nat :=
  flushF (ftzOn s.wave.mode.toNat ty.toNat) (fmtOfTy ty.toNat) (srcBits s ty o l)

/-! ### Arithmetic (R237 to R243) -/

/-- An exact binary or ternary operation with one rounding (R237). -/
def faddR (f : RF) (s : State) : State :=
  wrTyped f (fun l => resX s f.ty f.md.toNat (XVal.add (f.md == 2#2) (srcX s f.ty f.a l) (srcX s f.ty f.b l))) s
def fsubR (f : RF) (s : State) : State :=
  wrTyped f (fun l => resX s f.ty f.md.toNat (XVal.add (f.md == 2#2) (srcX s f.ty f.a l) (srcX s f.ty f.b l).neg)) s
def fmulR (f : RF) (s : State) : State :=
  wrTyped f (fun l => resX s f.ty f.md.toNat (XVal.mul (srcX s f.ty f.a l) (srcX s f.ty f.b l))) s
def ffmaR (f : RF) (s : State) : State :=
  wrTyped f (fun l => resX s f.ty f.md.toNat
    (XVal.add (f.md == 2#2) (XVal.mul (srcX s f.ty f.a l) (srcX s f.ty f.b l)) (srcX s f.ty f.c l))) s

/-- FMIN and FMAX (R78, R238). -/
def fminmaxR (isMax : Bool) (f : RF) (s : State) : State :=
  wrTyped f (fun l => minMaxF (fmtOfTy f.ty.toNat) isMax (s.wave.mode.getLsbD 9)
    (srcFlushed s f.ty f.a l) (srcFlushed s f.ty f.b l)) s

/-- The conditions of R240. -/
def fcmpCond (cc : Nat) (x y : XVal) : Bool :=
  let un := x.isNan || y.isNan
  match cc with
  | 0 => !un && x.cmp y == .eq
  | 1 => un || x.cmp y != .eq
  | 2 => !un && x.cmp y == .lt
  | 3 => !un && x.cmp y != .gt
  | 4 => !un && x.cmp y == .gt
  | 5 => !un && x.cmp y != .lt
  | 6 => un
  | _ => !un
/-- FCMP (R240). -/
def fcmpR (f : RF) (s : State) : State :=
  wrCompare f (fun l => fcmpCond (ctlOf f.c % 8) (srcX s f.ty f.a l) (srcX s f.ty f.b l)) s

/-- The class bit of an encoding (R241). -/
def classF (f : Fmt) (x : Nat) : Nat :=
  match decodeF f x with
  | .nan => 8
  | .inf n => if n then 0 else 7
  | .fin n m _ =>
    if m == 0 then (if n then 3 else 4)
    else if isSubnormal f x then (if n then 2 else 5)
    else if n then 1 else 6
/-- FCLASS (R241). -/
def fclassR (f : RF) (s : State) : State :=
  wrDst f (fun l => resRegs 6 (2 ^ classF (fmtOfTy f.ty.toNat) (srcBits s f.ty f.a l))) s

/-- FRND (R239). -/
def frndR (f : RF) (s : State) : State :=
  wrTyped f (fun l => resX s f.ty f.md.toNat (roundIntegral f.md.toNat (srcX s f.ty f.a l))) s
/-- FSQRT and FDIV (R242). -/
def fsqrtR (f : RF) (s : State) : State :=
  wrTyped f (fun l => resX s f.ty f.md.toNat (sqrtX (srcX s f.ty f.a l))) s
def fdivR (f : RF) (s : State) : State :=
  wrTyped f (fun l => resX s f.ty f.md.toNat (divX (srcX s f.ty f.a l) (srcX s f.ty f.b l))) s

/-- FRCP, FRSQ, FEX2, FLG2, FSIN and FCOS (R243, R244); `op` numbers them. -/
def approxR (op : Nat) (f : RF) (s : State) : State :=
  wrTyped f (fun l =>
    flushF (ftzOn s.wave.mode.toNat f.ty.toNat) (fmtOfTy f.ty.toNat)
      (approxF op f.ty.toNat s.wave.mode.toNat (srcX s f.ty f.a l) (srcBits s f.ty f.a l))) s

/-! ### Conversions (R245 to R247) -/

/-- The source type of a conversion's control field. -/
def convTy (f : RF) : BitVec 4 := BitVec.ofNat 4 (ctlOf f.b)
/-- FCVT (R245). -/
def fcvtR (f : RF) (s : State) : State :=
  wrTyped f (fun l =>
    let x := srcX s (convTy f) f.a l
    if bitAt (ctlOf f.b) 4 then
      flushF (ftzOn s.wave.mode.toNat f.ty.toNat) (fmtOfTy f.ty.toNat) (roundSr (fmtOfTy f.ty.toNat) x (src32 s f.c l))
    else resX s f.ty f.md.toNat x) s

/-- FTOI's value (R246): always saturates. -/
def ftoiVal (td : BitVec 4) (rnd : Nat) (x : XVal) : Nat :=
  match x with
  | .nan => 0
  | .inf n => wrapTy td (if n then minTy td else maxTy td)
  | y => satTy td (toIntR rnd y)
/-- FTOI and ITOF (R246, R247). -/
def ftoiR (f : RF) (s : State) : State :=
  wrTyped f (fun l => ftoiVal f.ty f.md.toNat (srcX s (convTy f) f.a l)) s
def itofR (f : RF) (s : State) : State :=
  wrTyped f (fun l => resX s f.ty f.md.toNat (.ofInt (srcInt s (convTy f) f.a l))) s

/-! ### Packing (R248, R249) -/

/-- Register `j` of a group, in a lane. -/
def grpReg (s : State) (o : Operand) (j l : Nat) : W32 :=
  match o with
  | .v n => rdV s (n.toNat + j) l
  | .s n => rdS s (n.toNat + j)
  | _ => 0
/-- PACK (R248). -/
def packR (f : RF) (s : State) : State :=
  let n := packN f.ty
  wrDst f (fun l => [BitVec.ofNat 32 ((List.range n).foldl (fun a j =>
    a + resX s f.ty f.md.toNat (srcF s.wave.mode.toNat 10 (grpReg s f.a j l).toNat) * 2 ^ (32 / n * j)) 0)]) s

/-- A register of packed elements: an inline integer is one element (R38). -/
def packedBits (s : State) (ty : BitVec 4) (o : Operand) (l : Nat) : Nat :=
  match o with
  | .imm _ => srcBits s ty o l
  | _ => src32 s o l
/-- UNPACK (R249). -/
def unpackR (f : RF) (s : State) : State :=
  let n := packN f.ty
  wrDst f (fun l => (List.range n).map fun j =>
    BitVec.ofNat 32 (resX s 10 0
      (srcF s.wave.mode.toNat f.ty.toNat (packedBits s f.ty f.a l / 2 ^ (32 / n * j) % 2 ^ (32 / n))))) s

/-! ### Blocks in registers (R250 to R253) -/

/-- The 16 lanes of a block group. -/
def groupLanes (g : Nat) : Mask := 0xFFFF#64 <<< (16 * g)
/-- The block groups of the wave that are fully active, and the active lanes of those that are partly active. -/
def fullGroups (w : Wave) (act : Mask) : List Nat :=
  (List.range (w.width / 16)).filter fun g => act &&& groupLanes g == groupLanes g
def partLanes (w : Wave) (act : Mask) : Mask :=
  (List.range (w.width / 16)).foldl (fun m g =>
    let a := act &&& groupLanes g
    if a == groupLanes g then m else m ||| a) 0

/-- Writes lane values of registers from `d` on, group by group. -/
def wrGroups (d : Nat) (vals : List (Nat × List W32)) (s : State) : State :=
  { s with wave := vals.foldl (fun w x => w.setGroup d x.1 x.2) s.wave }

/-- Changes a die's counter, when there is anything to count. -/
def countOn (n d : Nat) (f : Die → Die) (s : State) : State := if n == 0 then s else onDie d f s

/-- The start scale QNT `.sc` supplies for a group (R251). -/
def qntScale (f : RF) (s : State) (g : Nat) : Nat := src32 s f.b (16 * g)
/-- The block QNT makes for a group, and whether it saturated (R251). -/
def qntBlock (f : RF) (s : State) (g : Nat) : List Byte × Bool :=
  let fmt := ctlOf f.c % 64
  let n := qntN fmt
  let xs := (List.range ((sdbCount fmt).getD 0)).map fun i =>
    decodeF f32 (grpReg s f.a (i % n) (16 * g + i / n)).toNat
  quantise (s.wave.mode.getLsbD 3) fmt (if f.md == 1#2 then some (qntScale f s g) else none) xs
/-- A block's words in the lanes of a group (R250). -/
def blockWords (g : Nat) (b : List Byte) : List (Nat × List W32) :=
  (List.range 16).map fun j => (16 * g + j, [BitVec.ofNat 32 (bytesAt b (4 * j) 4)])
/-- QNT (R251, R253). Where one group is partly active and another has an S0 above 0x3FD, R253 does not say which trap comes:
CONVERGE does, the check the rule names first (assumption 16). -/
def qntR (f : RF) (s : State) : Eff :=
  let act := actOf s f
  let gs := fullGroups s.wave act
  let bad := gs.filter fun g => f.md == 1#2 && qntScale f s g > 0x3FD
  if partLanes s.wave act != 0#64 then .trap { cause := 3, sub := 1, mask := partLanes s.wave act }
  else if !bad.isEmpty then .trap { cause := 1, sub := 2, mask := bad.foldl (fun m g => m ||| groupLanes g) 0 }
  else
    let bs := gs.map fun g => (g, qntBlock f s g)
    let sat := (bs.filter fun b => b.2.2).length
    .next (countOn sat s.wave.die (fun d => { d with qsat := satAdd sat d.qsat })
      (wrGroups f.d.toNat (bs.flatMap fun b => blockWords b.1 b.2.1) s))

/-- The block a group holds in a register (R250). -/
def groupBlock (s : State) (o : Operand) (g : Nat) : List Byte :=
  (List.range 16).flatMap fun j => bytesOf 4 (srcBits s 10 o (16 * g + j))
/-- What DQNT delivers to a lane of a group (R252). -/
def dqntLane (f : RF) (s : State) (b : List Byte) (k : Nat) : List W32 :=
  let c := ctlOf f.c
  let n := dqntN (c % 4)
  let h := sdbHeader b
  let cnt := if h.reserved then 16 * 2 * n else h.count.getD 62
  (List.range n).map fun r =>
    let i := k * n + r + if bitAt c 2 then 16 * n else 0
    if i < cnt then BitVec.ofNat 32 (resX s 10 0 (sdbValue (s.wave.mode.getLsbD 3) h b i)) else 0
/-- DQNT (R252, R253, R87); a partly active group's trap comes before that of another group's reserved format (assumption 16). -/
def dqntR (f : RF) (s : State) : Eff :=
  let act := actOf s f
  let bs := (fullGroups s.wave act).map fun g => (g, groupBlock s f.a g)
  let bad := bs.filter fun b => (sdbHeader b.2).reserved
  if partLanes s.wave act != 0#64 then .trap { cause := 3, sub := 1, mask := partLanes s.wave act }
  else if !bad.isEmpty && s.wave.mode.getLsbD 7 then
    .trap { cause := 0x0E, sub := 3, mask := bad.foldl (fun m b => m ||| groupLanes b.1) 0 }
  else
    .next (countOn bad.length s.wave.die (fun d => { d with sdbres := satAdd bad.length d.sdbres })
      (wrGroups f.d.toNat (bs.flatMap fun b => (List.range 16).map fun k => (16 * b.1 + k, dqntLane f s b.2 k)) s))

/-! ### The arms -/

def execFadd (f : RF) (s : State) : Out := issue (.fadd f) s fun s => .next (faddR f s)
def execFsub (f : RF) (s : State) : Out := issue (.fsub f) s fun s => .next (fsubR f s)
def execFmul (f : RF) (s : State) : Out := issue (.fmul f) s fun s => .next (fmulR f s)
def execFfma (f : RF) (s : State) : Out := issue (.ffma f) s fun s => .next (ffmaR f s)
def execFmin (f : RF) (s : State) : Out := issue (.fmin f) s fun s => .next (fminmaxR false f s)
def execFmax (f : RF) (s : State) : Out := issue (.fmax f) s fun s => .next (fminmaxR true f s)
def execFcmp (f : RF) (s : State) : Out := issue (.fcmp f) s fun s => .next (fcmpR f s)
def execFclass (f : RF) (s : State) : Out := issue (.fclass f) s fun s => .next (fclassR f s)
def execFrnd (f : RF) (s : State) : Out := issue (.frnd f) s fun s => .next (frndR f s)
def execFrcp (f : RF) (s : State) : Out := issue (.frcp f) s fun s => .next (approxR 0 f s)
def execFrsq (f : RF) (s : State) : Out := issue (.frsq f) s fun s => .next (approxR 1 f s)
def execFsqrt (f : RF) (s : State) : Out := issue (.fsqrt f) s fun s => .next (fsqrtR f s)
def execFdiv (f : RF) (s : State) : Out := issue (.fdiv f) s fun s => .next (fdivR f s)
def execFex2 (f : RF) (s : State) : Out := issue (.fex2 f) s fun s => .next (approxR 2 f s)
def execFlg2 (f : RF) (s : State) : Out := issue (.flg2 f) s fun s => .next (approxR 3 f s)
def execFsin (f : RF) (s : State) : Out := issue (.fsin f) s fun s => .next (approxR 4 f s)
def execFcos (f : RF) (s : State) : Out := issue (.fcos f) s fun s => .next (approxR 5 f s)
def execFcvt (f : RF) (s : State) : Out := issue (.fcvt f) s fun s => .next (fcvtR f s)
def execFtoi (f : RF) (s : State) : Out := issue (.ftoi f) s fun s => .next (ftoiR f s)
def execItof (f : RF) (s : State) : Out := issue (.itof f) s fun s => .next (itofR f s)
def execQnt (f : RF) (s : State) : Out := issue (.qnt f) s (qntR f)
def execDqnt (f : RF) (s : State) : Out := issue (.dqnt f) s (dqntR f)
def execPack (f : RF) (s : State) : Out := issue (.pack f) s fun s => .next (packR f s)
def execUnpack (f : RF) (s : State) : Out := issue (.unpack f) s fun s => .next (unpackR f s)

end Sys2Proof.Machine
end

