-- ==== Sys2Proof/Machine/IntAlu.lean ====
section
/-! DEFINITION. Integer and address arithmetic, opcodes 0x40 to 0x5D (chapter 7, R207 to R231). -/
namespace Sys2Proof.Machine
open Sys2Proof

/-! ### The arithmetic, on values -/

/-- wrap or sat, as MOD says (R212, R214, R217, R228). -/
def wrapSat (md : BitVec 2) (ty : BitVec 4) (x : Int) : Nat := if md == 0#2 then wrapTy ty x else satTy ty x

/-- The high half of an exact product (R214). -/
def mulHigh (ty : BitVec 4) (p : Int) : Nat :=
  let w := tyBits ty
  wrapN p (2 * w) / 2 ^ w

/-- The count of a shift (R219): clamped by the caller, or modulo w with `.wrap`. -/
def shiftCount (md : BitVec 2) (w n : Nat) : Nat := if md == 1#2 then n % w else n
/-- SHL, SHR and SRA on w-bit patterns (R219). -/
def shlBits (w x n : Nat) : Nat := if n ≥ w then 0 else x * 2 ^ n % 2 ^ w
def shrBits (w x n : Nat) : Nat := if n ≥ w then 0 else x / 2 ^ n
def sraBits (w x n : Nat) : Nat := wrapN (sextN x w / (2 ^ (min n w) : Nat)) w
/-- ROT (R220). -/
def rotBits (right : Bool) (w x n : Nat) : Nat :=
  let k := if right then (w - n % w) % w else n % w
  (x * 2 ^ k + x / 2 ^ (w - k)) % 2 ^ w

/-- pos and len of a bit-field control (R221). -/
def fieldOf (w ctl : Nat) : Nat × Nat :=
  let pos := bitsOf ctl 7 0
  let len := bitsOf ctl 15 8
  (pos, if pos ≥ w then 0 else min len (w - pos))
/-- BFE (R221). -/
def bfeBits (ty : BitVec 4) (a ctl : Nat) : Nat :=
  let (pos, len) := fieldOf (tyBits ty) ctl
  let f := a / 2 ^ pos % 2 ^ len
  if len == 0 then 0 else if tySigned ty then wrapTy ty (sextN f len) else f
/-- BFI (R221). -/
def bfiBits (w a b ctl : Nat) : Nat :=
  let (pos, len) := fieldOf w ctl
  a % 2 ^ pos + b % 2 ^ len * 2 ^ pos + a / 2 ^ (pos + len) * 2 ^ (pos + len)

/-- POPC, CLZ and BREV (R222). -/
def popBits (w x : Nat) : Nat := ((List.range w).filter fun i => bitAt x i).length
def clzBits (w x : Nat) : Nat := if x == 0 then w else w - 1 - Nat.log2 x
def revBits (w x : Nat) : Nat := (List.range w).foldl (fun r i => 2 * r + if bitAt x i then 1 else 0) 0

/-! ### The instructions -/

/-- IADD (R212). -/
def iaddR (f : RF) (s : State) : State :=
  wrTyped f (fun l => wrapSat f.md f.ty (srcInt s f.ty f.a l + srcInt s f.ty f.b l)) s
/-- ISUB (R212). -/
def isubR (f : RF) (s : State) : State :=
  wrTyped f (fun l => wrapSat f.md f.ty (srcInt s f.ty f.a l - srcInt s f.ty f.b l)) s

/-- The carry of a lane that IADDC takes in: none from k0 (R213). -/
def carryIn (s : State) (c : Operand) (l : Nat) : Bool :=
  match c with
  | .mask k => k != 0#4 && (rdK s k.toNat).has l
  | _ => false
/-- IADDC's result and carry out in a lane (R213). -/
def iaddcLane (f : RF) (s : State) (l : Nat) : Nat × Bool :=
  addCarry (f.md == 1#2) (tyBits f.ty) (srcBits s f.ty f.a l) (srcBits s f.ty f.b l) (carryIn s f.c l)
/-- IADDC (R213). -/
def iaddcR (f : RF) (s : State) : State :=
  let t := wrTyped f (fun l => (iaddcLane f s l).1) s
  match f.c with
  | .mask k => wrMaskBits t k.toNat (actOf s f) fun l => (iaddcLane f s l).2
  | _ => t

/-- IMUL (R214). -/
def imulR (f : RF) (s : State) : State :=
  wrTyped f (fun l => wrapSat f.md f.ty (srcInt s f.ty f.a l * srcInt s f.ty f.b l)) s
/-- IMULH (R214). -/
def imulhR (f : RF) (s : State) : State :=
  wrTyped f (fun l => mulHigh f.ty (srcInt s f.ty f.a l * srcInt s f.ty f.b l)) s
/-- IMAD (R214). -/
def imadR (f : RF) (s : State) : State :=
  wrTyped f (fun l => wrapSat f.md f.ty (srcInt s f.ty f.a l * srcInt s f.ty f.b l + srcInt s f.ty f.c l)) s
/-- IMADW (R215). -/
def imadwR (f : RF) (s : State) : State :=
  wrDst f (fun l => resRegs 7 (wrapN (srcInt s f.ty f.a l * srcInt s f.ty f.b l + (src64 s f.c l : Nat)) 64)) s
/-- IMIN and IMAX (R216). -/
def iminR (f : RF) (s : State) : State :=
  wrTyped f (fun l => wrapTy f.ty (min (srcInt s f.ty f.a l) (srcInt s f.ty f.b l))) s
def imaxR (f : RF) (s : State) : State :=
  wrTyped f (fun l => wrapTy f.ty (max (srcInt s f.ty f.a l) (srcInt s f.ty f.b l))) s
/-- IABS (R217). -/
def iabsR (f : RF) (s : State) : State :=
  wrTyped f (fun l => wrapSat f.md f.ty ((srcInt s f.ty f.a l).natAbs : Nat)) s

/-- B of a logic instruction, inverted with `.nb` (R218). -/
def logicB (f : RF) (s : State) (l : Nat) : Nat :=
  let b := srcBits s f.ty f.b l
  if f.md == 1#2 then 2 ^ tyBits f.ty - 1 - b else b
/-- IAND, IOR and IXOR (R218). -/
def iandR (f : RF) (s : State) : State := wrTyped f (fun l => srcBits s f.ty f.a l &&& logicB f s l) s
def iorR (f : RF) (s : State) : State := wrTyped f (fun l => srcBits s f.ty f.a l ||| logicB f s l) s
def ixorR (f : RF) (s : State) : State := wrTyped f (fun l => srcBits s f.ty f.a l ^^^ logicB f s l) s

/-- SHL, SHR and SRA (R219). -/
def shlR (f : RF) (s : State) : State :=
  wrTyped f (fun l => shlBits (tyBits f.ty) (srcBits s f.ty f.a l) (shiftCount f.md (tyBits f.ty) (src32 s f.b l))) s
def shrR (f : RF) (s : State) : State :=
  wrTyped f (fun l => shrBits (tyBits f.ty) (srcBits s f.ty f.a l) (shiftCount f.md (tyBits f.ty) (src32 s f.b l))) s
def sraR (f : RF) (s : State) : State :=
  wrTyped f (fun l => sraBits (tyBits f.ty) (srcBits s f.ty f.a l) (shiftCount f.md (tyBits f.ty) (src32 s f.b l))) s
/-- ROT (R220). -/
def rotR (f : RF) (s : State) : State :=
  wrTyped f (fun l => rotBits (f.md == 1#2) (tyBits f.ty) (srcBits s f.ty f.a l) (src32 s f.b l)) s
/-- BFE and BFI (R221). -/
def bfeR (f : RF) (s : State) : State := wrTyped f (fun l => bfeBits f.ty (srcBits s f.ty f.a l) (src32 s f.b l)) s
def bfiR (f : RF) (s : State) : State :=
  wrTyped f (fun l => bfiBits (tyBits f.ty) (srcBits s f.ty f.a l) (srcBits s f.ty f.b l) (src32 s f.c l)) s
/-- POPC, CLZ and BREV (R222). -/
def popcR (f : RF) (s : State) : State :=
  wrDst f (fun l => resRegs 6 (popBits (tyBits f.ty) (srcBits s f.ty f.a l))) s
def clzR (f : RF) (s : State) : State :=
  wrDst f (fun l => resRegs 6 (clzBits (tyBits f.ty) (srcBits s f.ty f.a l))) s
def brevR (f : RF) (s : State) : State := wrTyped f (fun l => revBits (tyBits f.ty) (srcBits s f.ty f.a l)) s

/-- ICMP (R223). -/
def icmpR (f : RF) (s : State) : State :=
  wrCompare f (fun l => icmpCond (ctlOf f.c % 8) (srcInt s f.ty f.a l) (srcInt s f.ty f.b l)) s

/-- The condition of SEL (R224): a mask bit, or a nonzero scalar. -/
def selCond (f : RF) (s : State) (l : Nat) : Bool :=
  match f.c with
  | .mask k => (rdK s k.toNat).has l
  | c => src32 s c l != 0
/-- SEL (R224). -/
def selR (f : RF) (s : State) : State :=
  wrTyped f (fun l => if selCond f s l then srcBits s f.ty f.a l else srcBits s f.ty f.b l) s
/-- MOV (R225). -/
def movR (f : RF) (s : State) : State := wrTyped f (fun l => srcBits s f.ty f.a l) s

/-- The registers MOVI writes (R226). -/
def moviRegs (ty : BitVec 4) (imm : BitVec 32) : List W32 :=
  match ty.toNat with
  | 3 => [imm, hi32 (imm.signExtend 64)]
  | 7 => [imm, 0]
  | 11 => [0, imm]
  | _ => [imm]
/-- MOVI's fields as an R format's, for its destination and predicate. -/
def moviRF (f : MoviF) : RF :=
  { stall := f.stall, ep := f.ep, k := f.k, kn := f.kn, sc := f.sc, d := f.d, a := .v 0, b := .v 0, c := .v 0, ty := f.ty, md := 0 }
/-- MOVI (R226). -/
def moviR (f : MoviF) (s : State) : State := wrDst (moviRF f) (fun _ => moviRegs f.ty f.imm) s

/-- LEA (R227). -/
def leaR (f : RF) (s : State) : State :=
  wrDst f (fun l =>
    let off := srcInt s f.ty f.b l * (2 ^ (ctlOf f.c) : Nat)
    let base : Int := (src64 s f.a l : Nat)
    resRegs 7 (wrapN (if f.md == 0#2 then base + off else base - off) 64)) s

/-- ICVT (R228). -/
def icvtR (f : RF) (s : State) : State :=
  wrTyped f (fun l => wrapSat f.md f.ty (srcInt s (BitVec.ofNat 4 (ctlOf f.c)) f.a l)) s

/-! ### The arms -/

def execIadd (f : RF) (s : State) : Out := issue (.iadd f) s fun s => .next (iaddR f s)
def execIsub (f : RF) (s : State) : Out := issue (.isub f) s fun s => .next (isubR f s)
def execIaddc (f : RF) (s : State) : Out := issue (.iaddc f) s fun s => .next (iaddcR f s)
def execImul (f : RF) (s : State) : Out := issue (.imul f) s fun s => .next (imulR f s)
def execImulh (f : RF) (s : State) : Out := issue (.imulh f) s fun s => .next (imulhR f s)
def execImad (f : RF) (s : State) : Out := issue (.imad f) s fun s => .next (imadR f s)
def execImadw (f : RF) (s : State) : Out := issue (.imadw f) s fun s => .next (imadwR f s)
def execImin (f : RF) (s : State) : Out := issue (.imin f) s fun s => .next (iminR f s)
def execImax (f : RF) (s : State) : Out := issue (.imax f) s fun s => .next (imaxR f s)
def execIabs (f : RF) (s : State) : Out := issue (.iabs f) s fun s => .next (iabsR f s)
def execIand (f : RF) (s : State) : Out := issue (.iand f) s fun s => .next (iandR f s)
def execIor (f : RF) (s : State) : Out := issue (.ior f) s fun s => .next (iorR f s)
def execIxor (f : RF) (s : State) : Out := issue (.ixor f) s fun s => .next (ixorR f s)
def execShl (f : RF) (s : State) : Out := issue (.shl f) s fun s => .next (shlR f s)
def execShr (f : RF) (s : State) : Out := issue (.shr f) s fun s => .next (shrR f s)
def execSra (f : RF) (s : State) : Out := issue (.sra f) s fun s => .next (sraR f s)
def execRot (f : RF) (s : State) : Out := issue (.rot f) s fun s => .next (rotR f s)
def execBfe (f : RF) (s : State) : Out := issue (.bfe f) s fun s => .next (bfeR f s)
def execBfi (f : RF) (s : State) : Out := issue (.bfi f) s fun s => .next (bfiR f s)
def execPopc (f : RF) (s : State) : Out := issue (.popc f) s fun s => .next (popcR f s)
def execClz (f : RF) (s : State) : Out := issue (.clz f) s fun s => .next (clzR f s)
def execBrev (f : RF) (s : State) : Out := issue (.brev f) s fun s => .next (brevR f s)
def execIcmp (f : RF) (s : State) : Out := issue (.icmp f) s fun s => .next (icmpR f s)
def execSel (f : RF) (s : State) : Out := issue (.sel f) s fun s => .next (selR f s)
def execMov (f : RF) (s : State) : Out := issue (.mov f) s fun s => .next (movR f s)
def execMovi (f : MoviF) (s : State) : Out := issue (.movi f) s fun s => .next (moviR f s)
def execLea (f : RF) (s : State) : Out := issue (.lea f) s fun s => .next (leaR f s)
def execIcvt (f : RF) (s : State) : Out := issue (.icvt f) s fun s => .next (icvtR f s)

/-- IDIV and IREM never pass the checks: ILLOP, UNIMPL on stepping A2 (R230). The results an emulating handler gives are
R229's. -/
def idivVal (ty : BitVec 4) (x y : Int) : Nat :=
  if y == 0 then wrapTy ty (-1) else if tySigned ty && x == minTy ty && y == -1 then wrapTy ty x else wrapTy ty (x.tdiv y)
def iremVal (ty : BitVec 4) (x y : Int) : Nat :=
  if y == 0 then wrapTy ty x else if tySigned ty && x == minTy ty && y == -1 then 0 else wrapTy ty (x.tmod y)
def idivR (f : RF) (s : State) : State :=
  wrTyped f (fun l => idivVal f.ty (srcInt s f.ty f.a l) (srcInt s f.ty f.b l)) s
def iremR (f : RF) (s : State) : State :=
  wrTyped f (fun l => iremVal f.ty (srcInt s f.ty f.a l) (srcInt s f.ty f.b l)) s
def execIdiv (f : RF) (s : State) : Out := issue (.idiv f) s fun s => .next (idivR f s)
def execIrem (f : RF) (s : State) : Out := issue (.irem f) s fun s => .next (iremR f s)

end Sys2Proof.Machine
end

