-- ==== Sys2Proof/Machine/Compact.lean ====
section
/-! DEFINITION. Compact units: each has the effect of the core instruction it stands for, at its own length (R57, R58,
Tables 2.12 and 2.13). -/
namespace Sys2Proof.Machine
open Sys2Proof

def execNopCompact (s : State) : Out := issue .nopCompact s fun s => .next s
def execMovI32Compact (f : CU) (s : State) : Out := issue (.movI32Compact f) s fun s => .next (movR (expandUn 2 f) s)
def execIaddI32CompactReg (f : CF) (s : State) : Out := issue (.iaddI32CompactReg f) s fun s => .next (iaddR (expandReg 2 f) s)
def execIaddI32CompactImm (f : CF) (s : State) : Out := issue (.iaddI32CompactImm f) s fun s => .next (iaddR (expandInl 2 f) s)
def execIsubI32CompactReg (f : CF) (s : State) : Out := issue (.isubI32CompactReg f) s fun s => .next (isubR (expandReg 2 f) s)
def execIsubI32CompactImm (f : CF) (s : State) : Out := issue (.isubI32CompactImm f) s fun s => .next (isubR (expandInl 2 f) s)
def execImulI32CompactReg (f : CF) (s : State) : Out := issue (.imulI32CompactReg f) s fun s => .next (imulR (expandReg 2 f) s)
def execImulI32CompactImm (f : CF) (s : State) : Out := issue (.imulI32CompactImm f) s fun s => .next (imulR (expandInl 2 f) s)
def execIandI32CompactReg (f : CF) (s : State) : Out := issue (.iandI32CompactReg f) s fun s => .next (iandR (expandReg 2 f) s)
def execIandI32CompactImm (f : CF) (s : State) : Out := issue (.iandI32CompactImm f) s fun s => .next (iandR (expandInl 2 f) s)
def execIorI32Compact (f : CF) (s : State) : Out := issue (.iorI32Compact f) s fun s => .next (iorR (expandReg 2 f) s)
def execIxorI32Compact (f : CF) (s : State) : Out := issue (.ixorI32Compact f) s fun s => .next (ixorR (expandReg 2 f) s)
def execShlI32Compact (f : CF) (s : State) : Out := issue (.shlI32Compact f) s fun s => .next (shlR (expandInl 2 f) s)
def execShrN32Compact (f : CF) (s : State) : Out := issue (.shrN32Compact f) s fun s => .next (shrR (expandInl 6 f) s)
def execSraI32Compact (f : CF) (s : State) : Out := issue (.sraI32Compact f) s fun s => .next (sraR (expandInl 2 f) s)
def execIminI32Compact (f : CF) (s : State) : Out := issue (.iminI32Compact f) s fun s => .next (iminR (expandReg 2 f) s)
def execImaxI32Compact (f : CF) (s : State) : Out := issue (.imaxI32Compact f) s fun s => .next (imaxR (expandReg 2 f) s)
def execIaddI64CompactReg (f : CF) (s : State) : Out := issue (.iaddI64CompactReg f) s fun s => .next (iaddR (expandReg 3 f) s)
def execIaddI64CompactImm (f : CF) (s : State) : Out := issue (.iaddI64CompactImm f) s fun s => .next (iaddR (expandInl 3 f) s)
def execPopcN32Compact (f : CU) (s : State) : Out := issue (.popcN32Compact f) s fun s => .next (popcR (expandUn 6 f) s)
def execClzN32Compact (f : CU) (s : State) : Out := issue (.clzN32Compact f) s fun s => .next (clzR (expandUn 6 f) s)
def execFaddF32Compact (f : CF) (s : State) : Out := issue (.faddF32Compact f) s fun s => .next (faddR (expandReg 10 f) s)
def execFsubF32Compact (f : CF) (s : State) : Out := issue (.fsubF32Compact f) s fun s => .next (fsubR (expandReg 10 f) s)
def execFmulF32CompactReg (f : CF) (s : State) : Out := issue (.fmulF32CompactReg f) s fun s => .next (fmulR (expandReg 10 f) s)
def execFmulF32CompactImm (f : CF) (s : State) : Out := issue (.fmulF32CompactImm f) s fun s => .next (fmulR (expandInl 10 f) s)
def execFminF32Compact (f : CF) (s : State) : Out := issue (.fminF32Compact f) s fun s => .next (fminmaxR false (expandReg 10 f) s)
def execFmaxF32Compact (f : CF) (s : State) : Out := issue (.fmaxF32Compact f) s fun s => .next (fminmaxR true (expandReg 10 f) s)
def execFaddF64Compact (f : CF) (s : State) : Out := issue (.faddF64Compact f) s fun s => .next (faddR (expandReg 11 f) s)
def execFmulF64Compact (f : CF) (s : State) : Out := issue (.fmulF64Compact f) s fun s => .next (fmulR (expandReg 11 f) s)
def execFaddF16Compact (f : CF) (s : State) : Out := issue (.faddF16Compact f) s fun s => .next (faddR (expandReg 8 f) s)
def execFmulF16Compact (f : CF) (s : State) : Out := issue (.fmulF16Compact f) s fun s => .next (fmulR (expandReg 8 f) s)
def execFsqrtF32Compact (f : CU) (s : State) : Out := issue (.fsqrtF32Compact f) s fun s => .next (fsqrtR (expandUn 10 f) s)
def execExitCompact (k : BitVec 2) (s : State) : Out := issue (.exitCompact k) s (exitR (expandBare k))
def execRetCompact (k : BitVec 2) (s : State) : Out := issue (.retCompact k) s (retR (.retCompact k) (expandBare k) s)
def execFuseCompact (s : State) : Out := issue .fuseCompact s fun s => .next s
def execYieldCompact (s : State) : Out := issue .yieldCompact s yieldR
def execSrdCompact (f : CU) (s : State) : Out := issue (.srdCompact f) s (srdR (expandSrd f))

end Sys2Proof.Machine
end

