-- ==== Sys2Proof/Machine/Porter.lean ====
section
/-! DEFINITION. The Porter: opcodes 0xC0 to 0xC7, its streams and its faults (R291 to R319). -/
namespace Sys2Proof.Machine
open Sys2Proof

/-! ### Queues (R292, R293, R306, R307) -/

/-- Changes a bound queue. -/
def onQ (q : Nat) (f : OpQueue → OpQueue) (w : Wave) : Wave :=
  { w with queues := w.queues.map fun x => if x.name == q then f x else x }
/-- Pushes an entry; the first push fixes the producer side. -/
def pushQ (q : Nat) (side : Side) (e : QEntry) (w : Wave) : Wave :=
  onQ q (fun x => { x with entries := x.entries ++ [e], prod := if x.prod == .none then side else x.prod }) w
/-- Removes the head entry. -/
def popQ (q : Nat) (w : Wave) : Wave := onQ q (fun x => { x with entries := x.entries.drop 1 }) w
/-- Removes the last entry. -/
def dropLastQ (q : Nat) (w : Wave) : Wave := onQ q (fun x => { x with entries := x.entries.dropLast }) w
/-- Does an active stream take its indices from the queue? -/
def isIndexQ (w : Wave) (q : Nat) : Bool := w.streams.any fun t => t.indexed && t.qi == q

/-- QSTAT's word (Table 10.4). -/
def qstatWord : Option OpQueue → W32
  | none => 0
  | some x =>
    let b (c : Bool) (n : Nat) : Nat := if c then 2 ^ n else 0
    BitVec.ofNat 32 (x.entries.length + 128 + b x.closed 8 + b (x.prod == .porter) 9 + b (x.prod == .execute) 10 +
      b ((x.entries.head?.bind (·.fault)).isSome) 11)

/-- Is a faulted entry of the queue being formed again (R313)? A closed queue then has one entry more to come. -/
def reforming (w : Wave) (q : Nat) : Bool := w.streams.any fun t => t.again && t.isLoad && t.qd == q

/-- Closes a queue of an ended access thread once its load streams have ended (R307). -/
def autoClose (w : Wave) (q : Nat) : Wave :=
  if (w.thread.map (·.done)).getD false && !(w.streams.any fun t => t.isLoad && t.qd == q) then
    onQ q (fun x => if x.prod == .porter then { x with closed := true } else x) w
  else w

/-! ### Faults held (R310 to R312) -/

/-- TRAPWORD1 of a held fault (R311). -/
def accessWord (pc : PC) : W64 := 1#1 ++ 0#14 ++ pc
/-- A trap for a held fault. -/
def heldTrap (h : HeldFault) (work : HeldWork) : Raise :=
  { cause := h.cause, sub := h.sub, mask := h.mask, addr := h.addr, word1 := some (accessWord h.pc), work := work }

/-- The first fault, in the access code's order, that a stream of the wave or the thread holds and no split has raised
(R312). The manual gives no order among several. -/
def heldFault (w : Wave) : Option (HeldFault × HeldWork) :=
  let own := ((w.thread.bind (·.fault)).filter fun h => !h.taken).map fun h => (h, HeldWork.thread)
  (w.streams.findSome? fun t => match t.fault with
    | some h => if h.taken then none else some (h, .stream t.id t.faultIdx)
    | none => none).orElse fun _ => own

/-- A queue trap of the executing split or thread (R310): its active set, no address. -/
def queueTrap (m : Mask) (sub : Nat) : Eff := .trap { cause := 0x0B, sub := sub, mask := m }

/-- A held fault is raised first by QPUSH, QPOP, PSYNC and PLAUNCH of the wave (R312). -/
def afterHeld (s : State) (go : State → Eff) : Eff :=
  match heldFault s.wave with
  | some (h, work) => if s.acc then go s else .trap (heldTrap h work)
  | none => go s

/-! ### Execute-slice instructions (R303 to R307) -/

/-- QPUSH. -/
def qpushR (f : RF) (s : State) : Eff :=
  let q := qOf f
  let act := actOf s f
  match findQ s.wave q with
  | none => queueTrap act 2
  | some x =>
    if x.prod == .porter then queueTrap act 3
    else if x.closed then queueTrap act 4
    else if queueFull f s then .hold []
    else
      let es := (Mask.lanes act).foldl (fun e l => Store.set 0 e l (BitVec.ofNat 32 (src32 s f.a l))) []
      .next (onFocus (pushQ q .execute { valid := act, elems := es, fault := none, src := [] }) s)

/-- QPOP. -/
def qpopR (f : RF) (s : State) : Eff :=
  let q := qOf f
  let act := actOf s f
  match findQ s.wave q with
  | none => queueTrap act 2
  | some x =>
    if x.prod == .execute || isIndexQ s.wave q then queueTrap act 3
    else match x.entries with
      | [] => if x.closed && !reforming s.wave q then queueTrap act 1 else .hold []
      | e :: _ =>
        match e.fault with
        | some h => .trap (heldTrap h (.entry q))
        | none =>
          let s := onFocus (popQ q) s
          let s := { s with wave := s.wave.setLanes f.d.toNat (fun l => [Store.get 0 e.elems l]) (Mask.lanes act) }
          let k := match f.b with | .mask n => n.toNat | _ => 0
          .next (if k == 0 then s else wrK s k ((rdK s k &&& ~~~act) ||| (e.valid &&& act)))

/-- QSTAT, in either slice. -/
def qstatR (f : RF) (s : State) : Eff := .next (wrS s f.d.toNat (qstatWord (findQ s.wave (qOf f))))

/-- QCLOSE: by the producer side, or by either while there is none. -/
def qcloseR (f : RF) (s : State) : Eff :=
  let q := qOf f
  match findQ s.wave q with
  | none => queueTrap (maskOf s) 2
  | some x =>
    if x.prod == (if s.acc then Side.execute else Side.porter) then queueTrap (maskOf s) 3
    else .next (onFocus (onQ q fun x => { x with closed := true }) s)

/-! ### PLAUNCH and PSYNC (R295, R308) -/

/-- The operand queues bound on the focus wave's sub-core. -/
def boundQueues (s : State) : Nat := ((subWaves s).map fun w => w.queues.length).foldl (· + ·) 0
/-- An operand queue just bound. -/
def newQ (n : Nat) : OpQueue := { name := n, prod := .none, closed := false, entries := [] }

/-- PLAUNCH. A load that the ended thread has left in flight delivers nothing: its registers are gone. -/
def plaunchR (x : PlaunchX) (s : State) : Eff :=
  let w := s.wave
  let old := match w.thread with | some t => !t.done | none => false
  let want := (List.range 16).filter fun n => x.bind.getLsbD n
  let fresh := want.filter fun n => !(w.queues.any fun (q : OpQueue) => q.name == n)
  let waiting := w.splits.any fun c => match c.sync with | some n => w.released < n | none => false
  if old || !w.streams.isEmpty || 16 < boundQueues s + fresh.length || waiting ||
      ((List.range 32).any fun n => emptyIn s 0 (.s n)) then .hold []
  else
    let w := (w.queues.map (·.name)).foldl autoClose w
    let t : Thread :=
      { pc := w.cur.pc + x.off.signExtend 49,
        regs := (List.range 32).foldl (fun r n => Store.set 0 r n (Store.get 0 w.s n)) [], empty := [], psync := 0, blk := none,
        fault := none, atSync := false, done := false, issued := 0, clockHi := none }
    let kept := w.queues.filter fun q => want.contains q.name
    let w := { w with
      thread := some t, queues := kept ++ fresh.map newQ, psync := 0,
      released := 0, syncIds := [] }
    .next { s with wave := w.mapSplits fun c => { c with sync := c.sync.map fun _ => 0 },
                   pend := s.pend.filter fun p => !(p.thread && p.uid == w.uid && isLoad p.kind) }

/-- PSYNC: the wave's takes its number once and then waits for the thread's; the thread's waits to be released. -/
def psyncR (s : State) : Eff :=
  if s.acc then
    if (s.wave.thread.map (·.atSync)).getD false then .hold [] else .jump (onThread (fun t => { t with atSync := true }) s)
  else
    match s.wave.cur.sync with
    | some n => if n ≤ s.wave.released then .next (onCur (fun c => { c with sync := none }) s) else .hold []
    | none =>
      let n := s.wave.psync + 1
      .jump (onCur (fun c => { c with sync := some n })
        (onFocus (fun w => { w with psync := n, syncIds := w.syncIds ++ [s.nextId] }) s))

/-- May the thread's PSYNC be released: the wave has issued its own, its accesses before that are performed, and the
thread's own and its QST streams are done (R308, R309)? -/
def psyncReady (s : State) : Bool :=
  match s.wave.thread with
  | none => false
  | some t =>
    let n := t.psync + 1
    t.atSync && n ≤ s.wave.psync && !(s.wave.streams.any fun x => !x.isLoad) &&
    s.pend.all fun p => p.uid != s.wave.uid || (!p.thread && s.wave.syncIds.getD (n - 1) 0 ≤ p.id)

/-! ### Streams (R298 to R302) -/

/-- Starts a stream: its descriptor group is read now (R298). -/
def streamR (isLoad : Bool) (f : RF) (x : StreamX) (s : State) : Eff :=
  let porter := ((subWaves s).map fun w => w.streams.length).foldl (· + ·) 0
  if 4 ≤ s.wave.streams.length || 16 ≤ porter then .hold []
  else
    let g := match f.a with | .s n => n.toNat | _ => 0
    let indexed := x.mode == 1#2
    let dims := if indexed then [] else List.range (x.ndim.toNat + 1)
    let cnt := src32 s f.b 0
    let st : PStream :=
      { id := s.nextId, isLoad := isLoad, indexed := indexed, pc := pcOf s, base := rdS64 s g,
        counts := dims.map fun d => (rdS s (g + 2 + 2 * d)).toNat, strides := dims.map fun d => rdS s (g + 3 + 2 * d),
        sh := x.sh.toNat, mty := x.mty, qi := x.qi.toNat, qd := x.qd.toNat,
        limit := if indexed && cnt != 0 then some cnt else none, next := 0, pre := none, stopped := false, again := false, early := [],
        fault := none, faultIdx := false }
    .next { s with nextId := s.nextId + 1, wave := { s.wave with streams := s.wave.streams ++ [st] } }

/-- The lanes and addresses of an affine stream's next entry. -/
def affineLanes (w : Nat) (t : PStream) : List (Nat × Nat) :=
  (List.range (min w (streamCount t - t.next))).map fun l => (l, elemAddr t (t.next + l))

/-- Changes a stream. -/
def onStream (id : Nat) (f : PStream → PStream) (w : Wave) : Wave :=
  { w with streams := w.streams.map fun t => if t.id == id then f t else t }
/-- Ends a stream. -/
def endStream (id : Nat) (w : Wave) : Wave := { w with streams := w.streams.filter fun t => t.id != id }
/-- A stream goes past an entry. -/
def PStream.past (width : Nat) (t : PStream) : PStream :=
  { t with next := t.next + (if t.indexed then 1 else width), pre := none, stopped := false, again := false,
           fault := none, faultIdx := false }

/-- A stream holds a fault (R310, R312); when every lane of its wave has exited, the halt line rises (R317). -/
def streamFault (t : PStream) (cause sub : Nat) (m : Mask) (addr : Nat) (idx : Bool) (s : State) : State :=
  if s.wave.liveLanes == 0#64 then
    raiseHalt s.wave.ctx .fatal (some (s.wave.uid, 32,
      { cause := cause, sub := sub, mask := m, addr := addrW addr, pc := t.pc, pc2 := trapPc2 s s.wave t.pc, word0 := 0,
        word1 := accessWord t.pc, hdr := false })) s
  else
    onFocus (onStream t.id fun t => { t with
      fault := some { cause := cause, sub := sub, mask := m, addr := addrW addr, pc := t.pc, taken := false },
      faultIdx := idx }) s

/-- What the accesses of an entry meet: their places, a walk, an earlier access to wait for, or a fault. -/
inductive EntryProbe where
  | ok (keys : List (Nat × Nat × Nat))
  | miss (va : Nat)
  | waits
  | fault (cause sub : Nat) (mask : Mask) (addr : Nat)
deriving DecidableEq, Repr, Inhabited

/-- Must a stream's access wait for an earlier one of its thread, an earlier stream, or a copy (R127, R309)? -/
def streamWaits (s : State) (t : PStream) (k : Nat × Nat × Nat) (n : Nat) : Bool :=
  copyOwns s k.2.2 n || streamBefore s s.wave t.id (if t.isLoad then some t.qd else none) k.2.1 k.2.2 n ||
  s.pend.any fun p => p.thread && p.uid == s.wave.uid && p.id < t.id && p.lanes.any fun a =>
    a.key < k.2.2 + n && k.2.2 < a.key + accSize p.kind

/-- What a stream wants of a translation (R302). -/
def streamWant (s : State) (t : PStream) : Want :=
  { rd := t.isLoad, wr := !t.isLoad, store := !t.isLoad, refused := noHost, team := some s.wave.team,
    unit := some (s.wave.core, s.wave.sub) }
/-- Translates an entry's accesses (R302, R311): the cause is the lowest faulting lane's, the address the lowest among the
lanes that meet that cause. -/
def probeEntry (s : State) (t : PStream) (accs : List (Nat × Nat)) : EntryProbe :=
  let n := mtySize t.mty
  let want := streamWant s t
  let rs := accs.map fun a => (a.1, a.2, if a.2 % n != 0 then Xl.fault 7 0 a.2
    else translate s s.wave.die s.wave.ctx a.2 n want)
  match rs.find? fun r => r.2.2 == .miss with
  | some r => .miss r.2.1
  | none =>
    match rs.findSome? fun r => match r.2.2 with | .fault c b x => some (c, b, x) | _ => none with
    | some (c, b, x) =>
      let fs := rs.filterMap fun r => match r.2.2 with
        | .fault c' _ y => if c' == c then some (r.1, y) else none
        | _ => none
      .fault c b (Mask.ofLanes (fs.map (·.1))) (fs.foldl (fun m f => min m f.2) x)
    | none =>
      let ks := rs.filterMap fun r => match r.2.2 with | .ok key => some (r.1, r.2.1, key) | _ => none
      if ks.any fun k => streamWaits s t k n then .waits else .ok ks

/-- An element of a stream meets a peer that cannot be reached (R490). -/
def elementLost (t : PStream) (k : Nat × Nat × Nat) (s : State) : State :=
  routeLost s.wave.die s.wave.ctx s.wave.uid (s.wave.mode.getLsbD 7) (Mask.one k.1) k.2.1 t.pc k.2.2 s

/-- Forms a QLD entry from its lanes (R299, R300, R311); `ie` is the index entry it comes from. -/
def formEntry (t : PStream) (accs : List (Nat × Nat)) (ie : Option QEntry) (s : State) : State :=
  let taken (w : Wave) : Wave := if t.indexed && t.pre.isNone then popQ t.qi w else w
  match probeEntry s t accs with
  | .miss va => { s with agenda := walkFor s.wave.die s.wave.ctx va (streamWant s t) :: s.agenda }
  | .waits => s
  | .fault c b m x =>
    let h : HeldFault := { cause := c, sub := b, mask := m, addr := addrW x, pc := t.pc, taken := false }
    onFocus (fun w => onStream t.id (fun t => { t with stopped := true, again := false, pre := ie })
      (pushQ t.qd .porter { valid := 0, elems := [], fault := some h, src := [t.id] } (taken w))) s
  | .ok ks =>
    let n := mtySize t.mty
    let r := ks.foldl (fun (r : State × Store W32) k =>
      let (s, b) := readAs (keepEarly s.wave.uid t.id k.2.2 n (elementLost t k r.1)) (some s.wave.team) k.2.1 k.2.2 n
      (s, Store.set 0 r.2 k.1 ((loadRegs t.mty.toNat (t.sees k.2.2 b)).headD 0))) (s, [])
    onFocus (fun w => onStream t.id (PStream.past w.width)
      (pushQ t.qd .porter { valid := Mask.ofLanes (ks.map (·.1)), elems := r.2, fault := none, src := [] } (taken w))) r.1

/-- Has an earlier stream of the wave still to use the queue as this one does (R302)? -/
def earlierUser (w : Wave) (t : PStream) : Bool :=
  w.streams.any fun u => u.id < t.id && ((u.isLoad == t.isLoad && u.qd == t.qd) || (u.indexed && t.indexed && u.qi == t.qi))

/-- The next step of a load stream in focus (R300, R302, R310). -/
def qldStep (t : PStream) (s : State) : State :=
  let w := s.wave
  let fill (accs : List (Nat × Nat)) (ie : Option QEntry) : State :=
    match findQ w t.qd with
    | none => streamFault t 0x0B 2 0 0 false s
    | some q =>
      if q.prod == .execute then streamFault t 0x0B 3 0 0 false s
      else if q.closed && !t.again then streamFault t 0x0B 4 0 0 false s
      else if 16 ≤ q.entries.length then s
      else match ie.bind (·.fault) with
        | some h =>
          onFocus (fun w => onStream t.id (fun t => { t with stopped := true, again := false })
            (pushQ t.qd .porter { valid := 0, elems := [], fault := some h, src := (ie.map (·.src)).getD [] ++ [t.id] }
              (popQ t.qi w))) s
        | none => formEntry t accs ie s
  if t.stopped || t.fault.isSome || earlierUser w t then s
  else if t.indexed then
    if t.limit == some t.next then onFocus (endStream t.id) s
    else match t.pre with
      | some e => fill (indexLanes w.width t e) (some e)
      | none => match findQ w t.qi with
        | none => streamFault t 0x0B 2 0 0 false s
        | some q => match q.entries with
          | e :: _ => fill (indexLanes w.width t e) (some e)
          | [] => if q.closed && !reforming w t.qi then onFocus (endStream t.id) s else s
  else if streamCount t ≤ t.next then onFocus (endStream t.id) s
  else fill (affineLanes w.width t) none

/-- The next step of a store stream in focus (R301, R310, R312, R317). -/
def qstStep (t : PStream) (s : State) : State :=
  let w := s.wave
  let gone := w.liveLanes == 0#64
  if t.fault.isSome || earlierUser w t then s
  else if (if t.indexed then t.limit == some t.next else streamCount t ≤ t.next) then onFocus (endStream t.id) s
  else match findQ w t.qd, (if t.indexed then findQ w t.qi else some (newQ 0)) with
    | some q, some i =>
      if q.prod == .porter then streamFault t 0x0B 3 0 0 false s
      else
        let dry (x : OpQueue) : Bool := x.entries.isEmpty
        let spent (x : OpQueue) : Bool := dry x && !reforming w x.name && (x.closed || gone)
        if spent q || (t.indexed && spent i) then onFocus (endStream t.id) s
        else if dry q || (t.indexed && dry i) then s
        else
          let e := q.entries.headD { valid := 0, elems := [], fault := none, src := [] }
          let ie := i.entries.head?
          match ie.bind (·.fault) with
          | some h => streamFault t h.cause h.sub h.mask h.addr.toNat true s
          | none =>
            let accs := (match ie with
              | some ie => indexLanes w.width t ie
              | none => affineLanes w.width t).filter fun a => e.valid.getLsbD a.1
            match probeEntry s t accs with
            | .miss va => { s with agenda := walkFor w.die w.ctx va (streamWant s t) :: s.agenda }
            | .waits => s
            | .fault c b m x => streamFault t c b m x false s
            | .ok ks =>
              let n := mtySize t.mty
              let s := ks.foldl (fun s k =>
                writeAs
                  (keepEarly w.uid t.id k.2.2 n (elementLost t k s)) (some w.team) k.2.1 k.2.2
                    (bytesOf n (storeVal t.mty.toNat (Store.get 0 e.elems k.1).toNat))) s
              onFocus (fun w => onStream t.id (PStream.past w.width)
                (popQ t.qd (if t.indexed then popQ t.qi w else w))) s
    | _, _ => streamFault t 0x0B 2 0 0 false s

/-! ### Work that HRET restarts or drops (R313) -/

/-- Removes a faulted head entry, and lets the streams behind it form it again or go past it. -/
def resolveEntry (skip : Bool) (q : Nat) (w : Wave) : Wave :=
  match (findQ w q).bind fun x => x.entries.head? with
  | some e =>
    if e.fault.isNone then w
    else e.src.foldl (fun w id =>
      onStream id (fun t => if skip then t.past w.width else { t with stopped := false, again := true }) w) (popQ q w)
  | none => w

/-- HRET of a fault of R311 or R312: the work is restarted, or with `.skip` dropped. -/
def resolvePorter (skip : Bool) (work : HeldWork) (w : Wave) : Wave :=
  match work with
  | .entry q => resolveEntry skip q w
  | .thread =>
    { w with thread := w.thread.map fun t =>
        if t.fault.isNone then t
        else if skip then
          let n := match t.blk with
            | some b => (b.at false t.pc).2.2.2
            | none => 0
          let pc := t.pc + BitVec.ofNat 49 n
          { t with fault := none, pc := pc, blk := t.blk.filter fun b => b.has false pc }
        else { t with fault := none } }
  | .stream id idx =>
    match w.streams.find? fun t => t.id == id with
    | none => w
    | some t =>
      if t.fault.isNone then w
      else
        let w := if idx then resolveEntry skip t.qi w else w
        if skip then
          let w := if t.indexed && !idx && t.pre.isNone then popQ t.qi w else w
          onStream id (PStream.past w.width) (if t.isLoad then w else popQ t.qd w)
        else onStream id (fun t => { t with fault := none, faultIdx := false }) w
  | _ => w

/-- May `.skip` drop the work: not a faulted fetch of access code (R313)? -/
def skipAllowed (work : HeldWork) (w : Wave) : Bool :=
  match work with
  | .thread => match w.thread with
    | some t => t.fault.isNone || t.blk.isSome
    | none => true
  | _ => true

/-! ### The arms -/

def execQpush (f : RF) (s : State) : Out := issue (.qpush f) s fun s => afterHeld s (qpushR f)
def execQpop (f : RF) (s : State) : Out := issue (.qpop f) s fun s => afterHeld s (qpopR f)
def execQstat (f : RF) (s : State) : Out := issue (.qstat f) s (qstatR f)
def execQld (f : RF) (x : StreamX) (s : State) : Out := issue (.qld f x) s (streamR true f x)
def execQst (f : RF) (x : StreamX) (s : State) : Out := issue (.qst f x) s (streamR false f x)
def execPlaunch (f : RF) (x : PlaunchX) (s : State) : Out :=
  issue (.plaunch f x) s fun s => afterHeld s (plaunchR x)
def execPsync (f : RF) (s : State) : Out := issue (.psync f) s fun s => afterHeld s psyncR
def execQclose (f : RF) (s : State) : Out := issue (.qclose f) s (qcloseR f)

/-- A stream of a resident wave whose context runs takes its next step. -/
def streamEvent (uid st : Nat) (isLoad : Bool) (go : PStream → State → State) (s : State) : Out :=
  let s := { focusWave uid s with acc := false }
  match s.wave.streams.find? fun t => t.id == st with
  | some t =>
    if s.wave.uid == uid && t.isLoad == isLoad && ctxRuns s s.wave.ctx && s.wave.parked.isNone then .next (go t s) else .next s
  | none => .next s
/-- QLD_STREAM_ENTRY (R300); the load streams of an exited wave are abandoned (R317). -/
def execQldStreamEntry (uid st : Nat) (s : State) : Out :=
  streamEvent uid st true (fun t s => if s.wave.liveLanes == 0#64 then onFocus (endStream t.id) s else qldStep t s) s
/-- A store stream of an exited wave that still holds a fault raises it as the halt line (R317). -/
def orphanFault (t : PStream) (s : State) : State :=
  match t.fault with
  | some h => if h.taken then s else streamFault t h.cause h.sub h.mask h.addr.toNat t.faultIdx s
  | none => qstStep t s
/-- QST_STREAM_ENTRY (R301, R317). -/
def execQstStreamEntry (uid st : Nat) (s : State) : Out :=
  streamEvent uid st false (fun t s => if s.wave.liveLanes == 0#64 then orphanFault t s else qstStep t s) s

/-- PSYNC_RELEASE (R308). -/
def execPsyncRelease (uid : Nat) (s : State) : Out :=
  let s := { focusWave uid s with acc := false }
  if s.wave.uid == uid && ctxRuns s s.wave.ctx && psyncReady s then
    .next (onThread (fun t => { t with
        psync := t.psync + 1, atSync := false, pc := t.pc + 1, blk := t.blk.filter fun b => b.has false (t.pc + 1) })
      (onFocus (fun w => { w with released := w.released + 1 }) s))
  else .next s

/-- QUEUE_AUTO_CLOSE (R307). -/
def execQueueAutoClose (uid q : Nat) (s : State) : Out :=
  let s := focusWave uid s
  if s.wave.uid == uid then .next (onFocus (fun w => autoClose w q) s) else .next s

end Sys2Proof.Machine
end

