-- ==== Sys2Proof/Machine/Courier.lean ====
section
/-! DEFINITION. The Courier: opcodes 0xD0 to 0xD7, chunks and completion of copies, faults held in tags (R320 to R349,
R126 to R128). -/
namespace Sys2Proof.Machine
open Sys2Proof

/-! ### Units of a copy (R328, R329, R331) -/

/-- A unit that a copy moves: its destination, its source (none: zero bytes), its length. -/
structure CopyUnit where
  dst : Nat
  src : Option Nat
  len : Nat
deriving DecidableEq, Repr, Inhabited

/-- An address of 64 bits. -/
def addr64 (x : Int) : Nat := wrapN x 64

/-- The source and destination offsets of CPY's element `u`. -/
def cpyOff : Nat → List (Nat × W32 × W32) → Int × Int
  | _, [] => (0, 0)
  | u, (c, a, b) :: t =>
    let r := cpyOff (u / c) t
    (((u % c : Nat) : Int) * a.toInt + r.1, ((u % c : Nat) : Int) * b.toInt + r.2)

/-- The ring pixel of CPYH with number `u`, by ascending y and then x (R331). -/
def ringPixel (w h p u : Nat) : Int × Int :=
  let full := w + 2 * p
  if u < p * full then ((u % full : Nat) - (p : Int), (u / full : Nat) - (p : Int))
  else if u < p * full + h * (2 * p) then
    let r := u - p * full
    let x := r % (2 * p)
    ((if x < p then (x : Int) - p else (x : Int) - p + w), ((r / (2 * p) : Nat) : Int))
  else
    let r := u - p * full - h * (2 * p)
    ((r % full : Nat) - (p : Int), ((h + r / full : Nat) : Int))
/-- The pixels of the ring. -/
def ringCount (w h p : Nat) : Nat := 2 * p * (w + 2 * p) + 2 * p * h

/-- The border rules of CPYH (R331): a coordinate below 0, and one at or above n. -/
def edgeLo (mode : Nat) (v : Int) : Int := match mode with | 0 => 0 | 1 => -1 - v | _ => -v
def edgeHi (mode : Nat) (v n : Int) : Int := match mode with | 0 => n - 1 | 1 => 2 * n - 1 - v | _ => 2 * n - 2 - v

/-- The place of a pixel in a buffer. -/
def pixelAt (b0 : Nat) (p h e : Nat) (x y : Int) : Nat := addr64 ((b0 : Int) + (y + h) * p + (x + h) * e)
/-- The neighbour in a direction, NW first (Table 11.4). -/
def neighbourIdx (rx ry : Int) : Nat :=
  match rx, ry with
  | -1, -1 => 0 | 0, -1 => 1 | 1, -1 => 2 | -1, 0 => 3 | 1, 0 => 4 | -1, 1 => 5 | 0, 1 => 6 | _, _ => 7

/-- Which side of 0 to n - 1 a coordinate lies on. -/
def sideOf (v n : Int) : Int := if v < 0 then -1 else if v ≥ n then 1 else 0
/-- Where CPYH takes a ring pixel's value from: none for zero. -/
def haloSrc (b0 e mode edge w h p hl : Nat) (nb : List W64) (x y : Int) : Option Nat :=
  let top := bitAt edge 0
  let bot := bitAt edge 1
  let lft := bitAt edge 2
  let rgt := bitAt edge 3
  let iw : Int := w
  let ih : Int := h
  if mode == 3 && ((y < 0 && top) || (y ≥ ih && bot) || (x < 0 && lft) || (x ≥ iw && rgt)) then none
  else
    let y' := if y < 0 && top then edgeLo mode y else if y ≥ ih && bot then edgeHi mode y ih else y
    let x' := if x < 0 && lft then edgeLo mode x else if x ≥ iw && rgt then edgeHi mode x iw else x
    let rx := sideOf x' iw
    let ry := sideOf y' ih
    let base := if rx == 0 && ry == 0 then b0 else (nb.getD (neighbourIdx rx ry) 0).toNat
    some (pixelAt base p hl e (x' - rx * iw) (y' - ry * ih))

/-- The number of units of a copy to memory; a copy to a stream has none. -/
def unitCount (c : Copy) : Nat :=
  match c.kind with
  | .cpy _ dims => dims.foldl (fun n d => n * d.1) 1
  | .cpyg len _ _ rows => rows.length * (len / 4)
  | .cpyh _ _ _ hl w h _ _ => ringCount w h hl
  | _ => 0
/-- The bytes of a unit. -/
def unitLen (c : Copy) : Nat :=
  match c.kind with
  | .cpy e _ => e
  | .cpyh e _ _ _ _ _ _ _ => e
  | _ => 4
/-- Unit `u` of a copy to memory. -/
def unitAt (c : Copy) (u : Nat) : CopyUnit :=
  let len := unitLen c
  match c.kind with
  | .cpy _ dims =>
    let o := cpyOff u dims
    { dst := addr64 (c.dst.toNat + o.2), src := some (addr64 (c.src.toNat + o.1)), len := len }
  | .cpyg n spitch dpitch rows =>
    let l := u / (n / 4)
    let o := 4 * (u % (n / 4))
    let i := rows.getD l 0
    { dst := addr64 ((c.dst.toNat : Int) + l * dpitch.toInt + o),
      src := if i == 0xFFFFFFFF#32 then none else some (addr64 ((c.src.toNat + i.toNat * spitch + o : Nat) : Int)), len := len }
  | .cpyh e mode edge hl w h p nb =>
    let (x, y) := ringPixel w h hl u
    { dst := pixelAt c.dst.toNat p hl e x y, src := haloSrc c.dst.toNat e mode edge w h p hl nb x y, len := len }
  | _ => { dst := 0, src := none, len := len }

/-- Units of a chunk (R345): a CPYG row is not cut, unless it is longer than 4 KiB. -/
def unitsPerChunk (c : Copy) : Nat :=
  match c.kind with
  | .cpyg len _ _ _ => if len ≤ 4096 then 4096 / len * (len / 4) else 1024
  | _ => 4096 / unitLen c
/-- The pieces in which a CPYG row longer than 4 KiB goes (assumption 19). -/
def rowPieces (len : Nat) : Nat := (len + 4095) / 4096
/-- The number of chunks of a copy. -/
def chunkCount (c : Copy) : Nat :=
  match c.kind with
  | .cpyq _ _ _ _ n => (n + 3) / 4
  | .cpys _ _ _ _ _ _ _ nk _ _ => nk
  | .cpyg len _ _ rows => if 4096 < len then rows.length * rowPieces len
      else (unitCount c + unitsPerChunk c - 1) / unitsPerChunk c
  | _ => (unitCount c + unitsPerChunk c - 1) / unitsPerChunk c
/-- The first unit of a chunk of a copy to memory. -/
def chunkStart (c : Copy) (i : Nat) : Nat :=
  match c.kind with
  | .cpyg len _ _ _ => if 4096 < len then i / rowPieces len * (len / 4) + i % rowPieces len * 1024 else i * unitsPerChunk c
  | _ => i * unitsPerChunk c

/-- The destination pieces of a copy, none of which crosses a page: units, or the lines of CPYS's list and its status. -/
def destPieces (c : Copy) : List (Nat × Nat) :=
  match c.kind with
  | .cpyq _ _ _ _ _ => []
  | .cpys _ _ _ _ _ _ _ _ cap _ =>
    ((List.range ((4 * cap + 63) / 64)).map fun i => ((c.dst.toNat + 64 * i) % 2 ^ 64, min 64 (4 * cap - 64 * i))) ++
      [(c.aux.toNat, 8)]
  | _ => (List.range (unitCount c)).map fun u => let x := unitAt c u; (x.dst, x.len)

/-- Runs of places, neighbours joined. -/
def joinRuns : List (Nat × Nat) → List (Nat × Nat)
  | [] => []
  | (k, n) :: t =>
    match joinRuns t with
    | (k', n') :: t' => if k + n == k' then (k, n + n') :: t' else (k, n) :: (k', n') :: t'
    | [] => [(k, n)]

/-- The place of a byte of a list of runs, by its offset. -/
def placeAt : List (Nat × Nat) → Nat → Nat
  | [], _ => 0
  | (k, n) :: t, off => if off < n then k + off else placeAt t (off - n)
/-- What is left of a list of runs after its first bytes. -/
def dropRuns : List (Nat × Nat) → Nat → List (Nat × Nat)
  | [], _ => []
  | (k, n) :: t, m => if m < n then (k + m, n - m) :: t else dropRuns t (m - n)

/-! ### Translation for a copy (R325, R346) -/

/-- What translating a list of pieces gives. -/
inductive Places where
  | ok (keys : List (Nat × Nat))
  | miss (va : Nat)
  | fault (cause sub addr : Nat)
deriving DecidableEq, Repr, Inhabited

/-- Translates pieces (address, length) in order. -/
def placesOf (s : State) (die ctx : Nat) (want : Want) : List (Nat × Nat) → Places
  | [] => .ok []
  | (a, n) :: t =>
    match translate s die ctx a n want with
    | .miss => .miss a
    | .fault c b x => .fault c b x
    | .ok k => match placesOf s die ctx want t with
      | .ok ks => .ok ((k, n) :: ks)
      | r => r
/-- What a copy wants of its source, its destination and its signal (R104, R105). -/
def srcWant : Want := { rd := true, refused := noMmio }
def dstWant : Want := { wr := true, store := true, refused := noMmio }
def sigWant : Want := { rd := true, wr := true, refused := noMmio }
/-- The same, for the split in focus at the probe stage. -/
def probeWant (s : State) (want : Want) : Want :=
  { want with sup := s.wave.cur.h, unit := some (s.wave.core, s.wave.sub), holder := some (s.wave.uid, s.wave.cur.idx) }

/-! ### Tags (R320, R321, R337 to R341) -/

/-- The lowest FREE tag of a core. -/
def freeTag (s : State) (die core : Nat) : Option Nat :=
  (List.range 64).find? fun t => !(s.tags.any fun x => x.die == die && x.core == core && x.tag == t)
/-- A tag of a core. -/
def findTag (s : State) (die core tag : Nat) : Option Tag :=
  s.tags.find? fun x => x.die == die && x.core == core && x.tag == tag
/-- Changes a tag. -/
def onTag (die core tag : Nat) (f : Tag → Tag) (s : State) : State :=
  { s with tags := s.tags.map fun x => if x.die == die && x.core == core && x.tag == tag then f x else x }
/-- Frees a tag. -/
def dropTag (die core tag : Nat) (s : State) : State :=
  { s with tags := s.tags.filter fun x => !(x.die == die && x.core == core && x.tag == tag) }

/-- The mask a tag instruction names (R337). -/
def tagMask (f : RF) (s : State) : Mask :=
  if f.md == 2#2 then Mask.one (src32 s f.a 0 % 64)
  else match f.a with
    | .s n => rdS64 s n.toNat
    | .imm n => n.signExtend 64
    | _ => 0
/-- The named tags that the wave's team holds, ascending. -/
def namedTags (f : RF) (s : State) : List Tag :=
  (Mask.lanes (tagMask f s)).filterMap fun t =>
    (findTag s s.wave.die s.wave.core t).filter fun x => x.team == some s.wave.team
/-- The trap of the lowest named FAULT tag (R347). -/
def tagFault (f : RF) (s : State) : Option Raise :=
  ((namedTags f s).find? fun t => t.state == .fault).bind fun t => t.fault.map fun h =>
    { cause := h.cause, sub := h.sub, mask := s.wave.cur.mask, addr := h.addr,
      word1 := some (0#1 ++ 1#1 ++ 0#7 ++ BitVec.ofNat 6 t.tag ++ h.pc), work := .copy t.tag }

/-- TWAIT (R338). -/
def twaitR (f : RF) (s : State) : Eff :=
  match tagFault f s with
  | some r => .trap r
  | none =>
    let ts := namedTags f s
    let set (t : Tag) : Bool := t.state == .set
    if ts.isEmpty || (if f.md == 1#2 then ts.any set else ts.all set) then .next s else .hold []
/-- TFFR (R339). -/
def tffrR (f : RF) (s : State) : Eff :=
  match tagFault f s with
  | some r => .trap r
  | none =>
    match (namedTags f s).find? fun t => t.state == .set with
    | some t =>
      let s' := wrS s f.d.toNat (BitVec.ofNat 32 t.tag)
      .next (if f.md == 1#2 then dropTag t.die t.core t.tag s' else s')
    | none => .next (wrS s f.d.toNat 0xFFFFFFFF#32)
/-- TCLR (R340). -/
def tclrR (f : RF) (s : State) : Eff :=
  .next (((namedTags f s).filter fun t => t.state == .set).foldl (fun s t => dropTag t.die t.core t.tag s) s)

/-! ### Streams that copies fill (R350, R357) -/

/-- A bound matrix stream or metadata queue. -/
def findMs (w : Wave) (kind name : Nat) : Option MStream := w.mstreams.find? fun x => x.kind == kind && x.name == name
/-- Changes one. -/
def onMs (kind name : Nat) (f : MStream → MStream) (w : Wave) : Wave :=
  { w with mstreams := w.mstreams.map fun x => if x.kind == kind && x.name == name then f x else x }
/-- Can the name be bound on the focus wave's sub-core: it is, or one of the four is free (R350)? -/
def bindable (s : State) (kind name : Nat) : Bool :=
  (findMs s.wave kind name).isSome ||
  ((subWaves s).flatMap fun w => w.mstreams.filter fun x => x.kind == kind).length < 4
/-- Binds a name and records the entries a copy owes it. -/
def oweMs (kind name n : Nat) (w : Wave) : Wave :=
  let w := if (findMs w kind name).isSome then w
    else { w with mstreams := w.mstreams ++ [{ kind := kind, name := name, entries := [], owed := 0, zeros := false }] }
  onMs kind name (fun x => { x with owed := x.owed + n }) w
/-- Places entries that were owed; a released name discards them (R370). -/
def placeMs (kind name : Nat) (es : List (List Byte)) (w : Wave) : Wave :=
  onMs kind name (fun x => { x with entries := x.entries ++ es, owed := x.owed - es.length }) w

/-- The entries that an abandoned copy still owes are placed as zero bytes, as far as there is room (R350, R359). -/
def MStream.topUp (x : MStream) : MStream :=
  if !x.zeros then x
  else
    let n := min x.owed (8 - x.entries.length)
    { x with entries := x.entries ++ List.replicate n (List.replicate (if x.kind == 2 then 512 else 1024) 0#8),
             owed := x.owed - n, zeros := n != x.owed }

/-- The streams and queues a copy fills, each with the entries it gives it in all (R332, R335). -/
def fillsOf : CopyKind → List (Nat × Nat × Nat)
  | .cpyq st _ _ _ n => [(st / 4, st % 4, n)]
  | .cpys st m pat terms _ _ _ nk _ _ =>
    let e := if pat == 0 then nk else 2 * nk
    [(1, st % 4, e * terms), (2, m, e * terms)]
  | _ => []

/-! ### Issue (R325) -/

/-- A Courier command's operands as read: the copy, its limit check, its alignment checks (value met, address held). -/
structure Command where
  copy : Copy
  limits : Bool
  aligns : List (Bool × Nat)
deriving DecidableEq, Repr, Inhabited

/-- The copies of a core's Courier that wait to begin, among tags, and those it works on (R327). -/
def waitsIn (ts : List Tag) (die core : Nat) : Nat :=
  (ts.filter fun t => t.die == die && t.core == core && t.state == .busy && t.copy.any (!·.started)).length
def runsIn (ts : List Tag) (die core : Nat) : Nat :=
  (ts.filter fun t => t.die == die && t.core == core && t.state == .busy && t.copy.any (·.started)).length
/-- The copies of a core that have not begun (R327). -/
def waitingCopies (s : State) (die core : Nat) : Nat := waitsIn s.tags die core
/-- The signal's address, when the command names one (R344). -/
def sigAddr (x : CopyX) (s : State) : Option Nat := if x.sig then some (rdS64 s x.sreg.toNat).toNat else none

/-- Can the Courier not take a command that fills the streams and queues of a list (R17): no tag is free, its queue is full, a
name cannot be bound, or an earlier copy still owes entries? -/
def courierFull (fills : List (Nat × Nat)) (s : State) : Bool :=
  (freeTag s s.wave.die s.wave.core).isNone || 32 ≤ waitingCopies s s.wave.die s.wave.core ||
  fills.any fun q => !bindable s q.1 q.2 || (findMs s.wave q.1 q.2).any fun x => x.owed != 0

/-- Steps 4 to 7 of R325 and the issue: the copy owns its destination's bytes from now on (R127). -/
def copyR (f : RF) (x : CopyX) (c : Command) (s : State) : Eff :=
  let w := s.wave
  let sig := sigAddr x s
  let aligns := c.aligns ++ match sig with | some a => [(a % 8 == 0, a)] | none => []
  let fills := fillsOf c.copy.kind
  match freeTag s w.die w.core with
  | none => .hold []
  | some tag =>
    if !c.limits then .trap { cause := 1, sub := 2, mask := w.all }
    else match aligns.find? fun a => !a.1 with
      | some a => .trap { cause := 7, sub := 0, mask := w.all, addr := addrW a.2 }
      | none =>
        match placesOf s w.die w.ctx (probeWant s dstWant) (destPieces c.copy),
              placesOf s w.die w.ctx (probeWant s sigWant) (match sig with | some a => [(a, 8)] | none => []) with
        | .miss va, _ => .walk (walkFor w.die w.ctx va (probeWant s dstWant))
            (hitsOf s w.die w.ctx (probeWant s dstWant) ((destPieces c.copy).map (·.1)))
        | .fault k b a, _ => .trap { cause := k, sub := b, mask := w.all, addr := addrW a }
        | .ok _, .miss va => .walk (walkFor w.die w.ctx va (probeWant s sigWant))
            (hitsOf s w.die w.ctx (probeWant s dstWant) ((destPieces c.copy).map (·.1)))
        | .ok _, .fault k b a => .trap { cause := k, sub := b, mask := w.all, addr := addrW a }
        | .ok ds, .ok ks =>
          let runs := joinRuns ds
          let copy : Copy :=
            { c.copy with
              uid := w.uid, ctx := w.ctx, sup := w.cur.h,
              pc := w.cur.pc, sig := sig.bind fun a => ks.head?.map fun k => (a, k.1), dest := runs,
              owned := runs, order := s.nextId, strict := w.mode.getLsbD 7, fence := w.fence }
          let t : Tag :=
            { die := w.die, core := w.core, tag := tag, state := .busy, team := some w.team, queue := none, fault := none,
              copy := some copy }
          let s := onFocus (fun w => fills.foldl (fun w q => oweMs q.1 q.2.1 q.2.2 w) w) s
          .next (wrS { s with tags := s.tags ++ [t], nextId := s.nextId + 1 } f.d.toNat (BitVec.ofNat 32 tag))

/-- A copy of a kind from its bases. -/
def newCopy (kind : CopyKind) (src dst aux : W64) : Copy :=
  { kind := kind, uid := 0, ctx := 0, sup := false, pc := 0, src := src, dst := dst, aux := aux, next := 0, started := false, sig := none,
    dest := [], owned := [], rcount := 0, l1 := 0, l1x := 0, tused := 0, order := 0, strict := false,
    fence := 0, stale := false }

/-- The first register of the descriptor group. -/
def groupOf (f : RF) : Nat := match f.a with | .s n => n.toNat | _ => 0
/-- A base or a step that shall be a multiple of `e`: the address is the base, or one step from it. -/
def alignBase (e : Nat) (b : W64) : Bool × Nat := (b.toNat % e == 0, b.toNat)
def alignStep (e : Nat) (b : W64) (d : Int) : Bool × Nat := (d % (e : Int) == 0, addr64 (b.toNat + d))

/-- CPY (R328). -/
def cpyCommand (f : RF) (x : CpyX) (s : State) : Command :=
  let g := groupOf f
  let e := 2 ^ x.esize.toNat
  let src := rdS64 s g
  let dst := rdS64 s (g + 2)
  let dims := (List.range (x.ndim.toNat + 1)).map fun d =>
    ((rdS s (g + 4 + 3 * d)).toNat, rdS s (g + 5 + 3 * d), rdS s (g + 6 + 3 * d))
  { copy := newCopy (.cpy e dims) src dst 0, limits := true,
    aligns := [alignBase e src, alignBase e dst] ++
      dims.flatMap fun d => [alignStep e src d.2.1.toInt, alignStep e dst d.2.2.toInt] }

/-- CPYG (R329): the lanes' rows are read at issue. -/
def cpygCommand (f : RF) (x : CpygX) (s : State) : Command :=
  let g := groupOf f
  let src := rdS64 s g
  let dst := rdS64 s (g + 2)
  let len := (rdS s (g + 4)).toNat
  let sp := (rdS s (g + 5)).toNat
  let dp := rdS s (g + 6)
  { copy := newCopy (.cpyg len sp dp ((List.range s.wave.width).map fun l => rdV s x.idx.toNat l)) src dst 0,
    limits := 4 ≤ len && len ≤ 65536 && len % 4 == 0,
    aligns := [alignBase 4 src, alignBase 4 dst, alignStep 4 src sp, alignStep 4 dst dp.toInt] }

/-- The neighbours that CPYH reads: those none of whose sides meets the image edge (R331). -/
def haloReads (edge : Nat) : List Nat :=
  let need (i : Nat) : List Nat := match i with
    | 0 => [0, 2] | 1 => [0] | 2 => [0, 3] | 3 => [2] | 4 => [3] | 5 => [1, 2] | 6 => [1] | _ => [1, 3]
  (List.range 8).filter fun i => (need i).all fun b => !bitAt edge b
/-- CPYH (R330). -/
def cpyhCommand (f : RF) (x : CpyhX) (s : State) : Command :=
  let g := groupOf f
  let e := 2 ^ x.esize.toNat
  let b0 := rdS64 s g
  let w := (rdS s (g + 2)).toNat
  let h := (rdS s (g + 3)).toNat
  let p := (rdS s (g + 4)).toNat
  let hl := x.halo.toNat
  let nb := (List.range 8).map fun i => rdS64 s (g + 6 + 2 * i)
  { copy := newCopy (.cpyh e x.bmode.toNat x.edge.toNat hl w h p nb) 0 b0 0,
    limits := 1 ≤ hl && hl ≤ w && hl ≤ h && (x.bmode != 2#2 || (hl < w && hl < h)) && w ≤ 65535 && h ≤ 65535 &&
      (w + 2 * hl) * e ≤ p,
    aligns := [alignBase e b0, alignStep e b0 p] ++ (haloReads x.edge.toNat).map fun i => alignBase e (nb.getD i 0) }

/-- CPYS (R333). -/
def cpysCommand (f : RF) (x : CpysX) (s : State) : Command :=
  let g := groupOf f
  let src := rdS64 s g
  let cp := rdS s (g + 2)
  let nk := (rdS s (g + 3)).toNat
  let rb := rdS64 s (g + 4)
  let cap := (rdS s (g + 6)).toNat
  let sa := rdS64 s (g + 8)
  { copy := newCopy (.cpys x.str.toNat x.fm.toNat x.pat.toNat (x.tm.toNat + 1) x.etype.toNat x.drop cp nk cap
      (rdS s (g + 7)).toNat) src rb sa,
    limits := 1 ≤ nk && nk ≤ 64 && cap ≤ 262144,
    aligns := [alignBase 64 src, alignStep 64 src cp.toInt, alignBase 64 rb, alignBase 8 sa] }

/-- CPYQ (R332). -/
def cpyqCommand (f : RF) (x : CpyqX) (s : State) : Command :=
  let g := groupOf f
  let src := rdS64 s g
  let p := rdS s (g + 2)
  let st := rdS s (g + 3)
  { copy := newCopy (.cpyq x.str.toNat (if x.rows == 0#4 then 16 else x.rows.toNat) p st (rdS s (g + 4)).toNat) src 0 0,
    limits := true, aligns := [alignBase 64 src, alignStep 64 src p.toInt, alignStep 64 src st.toInt] }

/-! ### Chunks (R342, R343, R345, R346) -/

/-- Does another copy own bytes of a run: any for a read, an earlier one for a write (R127, R343)? -/
def otherOwns (s : State) (c : Copy) (wr : Bool) (key n : Nat) : Bool :=
  s.tags.any fun t => match t.copy with
    | some d => d.order != c.order && (!wr || d.order < c.order) && d.owned.any fun r => rangesMeet r.1 r.2 key n
    | none => false
/-- Is a byte one of the copy's own destination bytes? -/
def ownDest (c : Copy) (key : Nat) : Bool := c.dest.any fun r => r.1 ≤ key && key < r.1 + r.2

/-- The copy stops before its chunk (R346). When it goes on, its places are translated again: a TLBINV between does not wait for
it (R434). -/
def stopCopy (t : Tag) (c : Copy) (k b a : Nat) (s : State) : State :=
  onTag t.die t.core t.tag (fun t => { t with
    state := .fault, copy := some { c with stale := true },
    fault := some { cause := k, sub := b, mask := 0, addr := addrW a, pc := c.pc, taken := false } }) s
/-- The copy of a tag is updated. -/
def setCopy (t : Tag) (c : Copy) (s : State) : State := onTag t.die t.core t.tag (fun t => { t with copy := some c }) s

/-- A copy's access meets a peer that cannot be reached (R490). -/
def copyLost (t : Tag) (c : Copy) (va key : Nat) (s : State) : State := routeLost t.die c.ctx c.uid c.strict 0 va c.pc key s
/-- A copy's write. -/
def copyWrite (t : Tag) (c : Copy) (s : State) (w : Nat × Nat × List Byte) : State := writeHome (copyLost t c w.1 w.2.1 s) w.2.1 w.2.2
/-- Reads of a chunk: all return, after their recalls (R107), or a walk, a wait or a stop. -/
def withReads (t : Tag) (c : Copy) (pieces : List (Nat × Nat)) (s : State) (go : List (Nat × Nat) → State → State) : State :=
  let want := { srcWant with sup := c.sup }
  match placesOf s t.die c.ctx want pieces with
  | .miss va => { s with agenda := walkFor t.die c.ctx va want :: s.agenda }
  | .fault k b a => stopCopy t c k b a s
  | .ok ks =>
    if ks.any fun k => otherOwns s c false k.1 k.2 then s
    else go ks ((pieces.zip ks).foldl (fun s k => recallBytes k.2.1 k.2.2 (copyLost t c k.1.1 k.2.1 s)) s)

/-- The bytes a copy reads at a place: undefined where they are its own destination (R343). -/
def readCopy (s : State) (c : Copy) (key n tag : Nat) : List Byte :=
  let b := cohRead s key n
  let u := freeBytes s tag n
  (List.range n).map fun i => if ownDest c (key + i) then u.getD i 0 else b.getD i 0

/-- One chunk of CPY, CPYG or CPYH: the places of its destination are those translated at issue (R325). -/
def memChunk (t : Tag) (c : Copy) (s : State) : State :=
  let lo := chunkStart c c.next
  let hi := min (unitCount c) (chunkStart c (c.next + 1))
  let len := unitLen c
  let us := (List.range (hi - lo)).map fun i => (unitAt c (lo + i), placeAt c.dest ((lo + i) * len))
  if us.any fun u => otherOwns s c true u.2 len then s
  else withReads t c (us.filterMap fun u => u.1.src.map fun a => (a, len)) s fun ks s =>
    let vals := us.foldl (fun (r : List (Nat × Nat) × List (Nat × Nat × List Byte)) u =>
      match u.1.src with
      | none => (r.1, (u.1.dst, u.2, List.replicate len 0#8) :: r.2)
      | some _ => (r.1.drop 1, (u.1.dst, u.2, readCopy s c ((r.1.head?.map (·.1)).getD 0) len u.2) :: r.2)) (ks, [])
    let s := vals.2.reverse.foldl (copyWrite t c) s
    setCopy t { c with next := c.next + 1, owned := dropRuns c.dest (hi * len) } s

/-- Has an earlier copy into one of the streams still to place entries (R327)? -/
def earlierFill (s : State) (c : Copy) : Bool :=
  s.tags.any fun t => match t.copy with
    | some d => d.order < c.order && d.uid == c.uid && d.next < chunkCount d &&
        (fillsOf d.kind).any fun q => (fillsOf c.kind).any fun r => q.1 == r.1 && q.2.1 == r.2.1
    | none => false
/-- Is there room for `n` entries in every stream the copy fills? A released name takes any number (R370). -/
def roomFor (s : State) (c : Copy) (n : Nat) : Bool :=
  (fillsOf c.kind).all fun q => match (findWave c.uid s).bind fun w => findMs w q.1 q.2.1 with
    | some x => x.entries.length + n ≤ 8
    | none => true

/-- One chunk of CPYQ (R332). -/
def cpyqChunk (t : Tag) (c : Copy) (st rows : Nat) (pitch step : W32) (n : Nat) (s : State) : State :=
  let lo := 4 * c.next
  let cnt := min 4 (n - lo)
  if earlierFill s c || !roomFor s c cnt then s
  else
    let at_ (e r : Nat) : Nat := addr64 ((c.src.toNat : Int) + (lo + e : Nat) * step.toInt + r * pitch.toInt)
    let pieces := (List.range cnt).flatMap fun e => (List.range rows).map fun r => (at_ e r, 64)
    withReads t c pieces s fun ks s =>
      let es := (List.range cnt).map fun e =>
        ((List.range 16).flatMap fun r =>
          if r < rows then cohRead s ((ks.getD (e * rows + r) (0, 0)).1) 64 else List.replicate 64 0#8)
      setCopy t { c with next := c.next + 1 } (onWave c.uid (placeMs (st / 4) (st % 4) es) s)

/-! ### Sparse decomposition (R334 to R336) -/

/-- N and M of a pattern. -/
def patN (pat : Nat) : Nat := match pat with | 0 => 1 | 1 => 2 | _ => 4
def patM (pat : Nat) : Nat := if pat == 2 then 8 else 4
/-- key(e). -/
def sparseKey (ety : Nat) (b : Byte) : Nat := if ety == 0 then b.toInt.natAbs else b.toNat % 128
/-- Takes the position with the largest key, the lower first among equals. -/
def bestPos (key : Nat → Nat) : List Nat → Option Nat
  | [] => none
  | p :: t => match bestPos key t with
    | some q => if key p ≥ key q then some p else some q
    | none => some p
/-- The `n` positions of `rem` with the largest keys. -/
def selectN (key : Nat → Nat) : Nat → List Nat → List Nat
  | 0, _ => []
  | n + 1, rem => match bestPos key rem with
    | some p => p :: selectN key n (rem.filter fun q => q != p)
    | none => []
/-- The terms of one group: each a list of (position, is it kept), and the positions left. -/
def groupTerms (n m : Nat) (key : Nat → Nat) : Nat → List Nat → List (List (Nat × Bool)) × List Nat
  | 0, rem => ([], rem)
  | t + 1, rem =>
    let sel := selectN key n rem
    let pad := ((List.range m).filter fun p => !sel.contains p).take (n - sel.length)
    let pos := (List.range m).filter fun p => sel.contains p || pad.contains p
    let r := groupTerms n m key t (rem.filter fun p => !sel.contains p)
    (pos.map (fun p => (p, sel.contains p)) :: r.1, r.2)

/-- A group of a column: its bytes give its terms and its residual positions. -/
def sparseGroup (pat terms ety : Nat) (bytes : List Byte) : List (List (Nat × Bool)) × List Nat :=
  let key (p : Nat) : Nat := sparseKey ety (bytes.getD p 0)
  groupTerms (patN pat) (patM pat) key terms ((List.range (patM pat)).filter fun p => key p != 0)

/-- |value| of a residual element in units of 2^-16, or that it is infinite (1) or a NaN (2). -/
def sparseMag (ety : Nat) (b : Byte) : Nat × Nat :=
  match decodeTy ety b.toNat with
  | .nan => (0, 2)
  | .inf _ => (0, 1)
  | .fin _ m e => if ety == 0 then (65536 * b.toInt.natAbs, 0) else
    ((if e ≥ -16 then m * 2 ^ (e + 16).toNat else m / 2 ^ (-16 - e).toNat), 0)

/-- Two nibbles to a byte, the even one low (R335). -/
def packNibbles : List Nat → List Byte
  | a :: b :: t => BitVec.ofNat 8 (a % 16 + 16 * (b % 16)) :: packNibbles t
  | [a] => [BitVec.ofNat 8 (a % 16)]
  | [] => []

/-- The residual entries of a block, by k and then column (Table 11.6), with their bytes. -/
def residualOf (block m : Nat) (grps : Nat → Nat → List (List (Nat × Bool)) × List Nat) (col : Nat → List Byte) :
    List (Nat × Byte) :=
  (List.range 256).flatMap fun k => (List.range 16).filterMap fun j =>
    if (grps j (k / m)).2.contains (k % m) then
      let b := (col j).getD k 0
      some ((256 * block + k) * 4096 + j * 256 + b.toNat, b)
    else none

/-- The status word of CPYS (R336, Table 11.7). -/
def cpysStatus (c : Copy) (drop : Bool) (cap bound : Nat) : W64 :=
  let l1 : XVal := match c.l1x with | 0 => .fin false c.l1 (-16) | 1 => .inf false | _ => .nan
  let dropped := drop && c.l1x != 2 && XVal.cmp l1 (decodeF f32 bound) != .gt && !(decodeF f32 bound).isNan
  let ovf := !dropped && c.rcount > cap
  BitVec.ofNat 64 (roundF f32 3 l1 + (if dropped then 0 else c.rcount) * 2 ^ 32 + (if dropped then 2 ^ 51 else 0) +
    (if ovf then 2 ^ 52 else 0) + c.tused * 2 ^ 53)

/-- What a column gives term `x` of entry `e`: each group's positions of the term, with the byte kept there or zero (R334,
R335). -/
def sparseRow (pat terms ety : Nat) (col : List Byte) (e x : Nat) : List (Nat × Byte) :=
  let m := patM pat
  let per := 64 / patN pat
  (List.range per).flatMap fun (g : Nat) =>
    let bytes := (col.drop (m * (e * per + g))).take m
    ((sparseGroup pat terms ety bytes).1.getD x []).map fun p => (p.1, if p.2 then bytes.getD p.1 0 else 0#8)
/-- The entries that a block makes, in order: of each stream entry, each term. -/
def sparseEntries (pat terms : Nat) : List (Nat × Nat) :=
  (List.range (if pat == 0 then 1 else 2)).flatMap fun e => (List.range terms).map fun x => (e, x)
/-- The bytes of a block's entries in the B stream, and in the metadata queue, from its columns. -/
def sparseVals (pat terms ety : Nat) (cols : List (List Byte)) : List (List Byte) :=
  (sparseEntries pat terms).map fun o => cols.flatMap fun b => (sparseRow pat terms ety b o.1 o.2).map (·.2)
def sparsePlaces (pat terms ety : Nat) (cols : List (List Byte)) : List (List Byte) :=
  (sparseEntries pat terms).map fun o => cols.flatMap fun b => packNibbles ((sparseRow pat terms ety b o.1 o.2).map (·.1))
/-- The terms and residual positions of every group of every column. -/
def sparseGroups (pat terms ety : Nat) (cols : List (List Byte)) : List (List (List (List (Nat × Bool)) × List Nat)) :=
  cols.map fun b => (List.range (256 / patM pat)).map fun g => sparseGroup pat terms ety ((b.drop (patM pat * g)).take (patM pat))
/-- A block's residual entries. -/
def sparseResidual (block pat terms ety : Nat) (cols : List (List Byte)) : List (Nat × Byte) :=
  let grps := sparseGroups pat terms ety cols
  residualOf block (patM pat) (fun j g => (grps.getD j []).getD g ([], [])) fun j => cols.getD j []
/-- The copy after a block: its counts of R336 go on. -/
def sparseStep (c : Copy) (pat terms ety : Nat) (cols : List (List Byte)) : Copy :=
  let grps := sparseGroups pat terms ety cols
  let res := sparseResidual c.next pat terms ety cols
  let used := (List.range terms).foldl (fun u x =>
    if grps.any fun gs => gs.any fun g => (g.1.getD x []).any (·.2) then max u (x + 1) else u) c.tused
  let sum := res.foldl (fun (a : Nat × Nat) r => let v := sparseMag ety r.2; (a.1 + v.1, max a.2 v.2)) (c.l1, c.l1x)
  { c with next := c.next + 1, rcount := c.rcount + res.length, l1 := sum.1, l1x := sum.2, tused := used }
/-- What a block writes, by address and place: its residual entries as far as the list has room, and at the last block the
status. -/
def sparseWrites (c : Copy) (pat terms ety : Nat) (drop : Bool) (nk cap bound : Nat)
    (cols : List (List Byte)) : List (Nat × Nat × List Byte) :=
  let res := sparseResidual c.next pat terms ety cols
  (((List.range res.length).zip res).filterMap fun x =>
    if c.rcount + x.1 < cap then some (c.dst.toNat + 4 * (c.rcount + x.1), placeAt c.dest (4 * (c.rcount + x.1)), bytesOf 4 x.2.1)
    else none) ++
  if c.next + 1 == nk then
    [(c.aux.toNat, placeAt c.dest (4 * cap), bytesOf 8 (cpysStatus (sparseStep c pat terms ety cols) drop cap bound).toNat)]
  else []
/-- The pieces of a block's columns that CPYS reads (R333). -/
def sparsePieces (c : Copy) (cp : W32) : List (Nat × Nat) :=
  (List.range 16).flatMap fun (j : Nat) => (List.range 4).map fun (q : Nat) =>
    (addr64 ((c.src.toNat : Int) + ((j : Nat) : Int) * cp.toInt + (256 * c.next + 64 * q : Nat)), 64)

/-- One chunk of CPYS: a block of 256 positions. -/
def cpysChunk (t : Tag) (c : Copy) (st fm pat terms ety : Nat) (drop : Bool) (cp : W32) (nk cap bound : Nat)
    (s : State) : State :=
  if earlierFill s c || !roomFor s c (sparseEntries pat terms).length then s
  else withReads t c (sparsePieces c cp) s fun ks s =>
    let cols := (List.range 16).map fun j => (List.range 4).flatMap fun q => readCopy s c ((ks.getD (4 * j + q) (0, 0)).1) 64 (64 * j + q)
    let outs := sparseWrites c pat terms ety drop nk cap bound cols
    if outs.any fun o => otherOwns s c true o.2.1 o.2.2.length then s
    else
      let s := outs.foldl (copyWrite t c) s
      let s := onWave c.uid (fun w => placeMs 2 fm (sparsePlaces pat terms ety cols)
        (placeMs 1 (st % 4) (sparseVals pat terms ety cols) w)) s
      let d := sparseStep c pat terms ety cols
      setCopy t { d with owned := if d.next == nk then [] else dropRuns c.dest (4 * min d.rcount cap) } s

/-- May the copy begin: fewer than eight of the core run, the wave's earlier ones have begun (R327), and the accesses that come
before the command are performed (R126, R127)? -/
def mayBegin (s : State) (t : Tag) (c : Copy) : Bool :=
  let on := s.tags.filterMap fun x => if x.die == t.die && x.core == t.core && x.state == .busy then x.copy else none
  (on.filter fun d => d.started).length < 8 && !(on.any fun d => d.uid == c.uid && d.order < c.order && !d.started) &&
  !(s.pend.any fun p => isAccess p.kind && beforeCopy p c)

/-! ### A copy's places, found again (R349, R434) -/

/-- The bytes of a list of runs from an offset on, as runs. -/
def sliceRuns : List (Nat × Nat) → Nat → Nat → List (Nat × Nat)
  | [], _, _ => []
  | (k, n) :: t, off, len =>
    (if off < n && len != 0 then [(k + off, min len (n - off))] else []) ++ sliceRuns t (off - n) (len - (n - off))
/-- The offsets, in the bytes of a list of runs, of those that lie in other runs too. -/
def offsetsIn (owned : List (Nat × Nat)) : List (Nat × Nat) → Nat → List (Nat × Nat)
  | [], _ => []
  | (k, n) :: t, at_ =>
    ((owned.filter fun r => rangesMeet r.1 r.2 k n).map fun r =>
      let lo := max r.1 k
      (at_ + (lo - k), min (r.1 + r.2) (k + n) - lo)) ++ offsetsIn owned t (at_ + n)
/-- A copy at the places its addresses have now: it owns its unwritten bytes there. -/
def movedCopy (c : Copy) (ds : List (Nat × Nat)) (sig : Option (Nat × Nat)) : Copy :=
  let dest := joinRuns ds
  { c with
    stale := false, dest := dest, sig := sig,
    owned := joinRuns ((offsetsIn c.owned c.dest 0).flatMap fun r => sliceRuns dest r.1 r.2) }
/-- The places of a tag's copy are translated again: done, or a walk awaited first, or a fault that stops the copy. -/
def refreshCopy (t : Tag) (c : Copy) (s : State) : State × Option (Nat × Want) :=
  let dw := { dstWant with sup := c.sup }
  let sw := { sigWant with sup := c.sup }
  match placesOf s t.die c.ctx dw (destPieces c), placesOf s t.die c.ctx sw (c.sig.toList.map fun k => (k.1, 8)) with
  | .miss va, _ => (s, some (va, dw))
  | .fault k b a, _ => (stopCopy t c k b a s, none)
  | .ok _, .miss va => (s, some (va, sw))
  | .ok _, .fault k b a => (stopCopy t c k b a s, none)
  | .ok ds, .ok ks => (setCopy t (movedCopy c ds (c.sig.bind fun k => ks.head?.map fun x => (k.1, x.1))) s, none)

/-- The next chunk of a copy. -/
def stepCopy (t : Tag) (c : Copy) (s : State) : State :=
  if c.next ≥ chunkCount c then s
  else match c.kind with
    | .cpyq st rows p d n => cpyqChunk t c st rows p d n s
    | .cpys st fm pat tm ety drop cp nk cap bound => cpysChunk t c st fm pat tm ety drop cp nk cap bound s
    | _ => memChunk t c s

/-! ### Completion and HRET (R128, R344, R347, R359) -/

/-- A copy ends (R117, R128, R344): its tag is set, or freed for a packet's (R391), and its signal is decremented; a queue that
holds for the copy goes on (R381). -/
def endCopy (t : Tag) (c : Copy) (s : State) : State :=
  let s := match t.queue with
    | some _ => dropTag t.die t.core t.tag s
    | none => onTag t.die t.core t.tag (fun t => { t with state := .set, fault := none, copy := none }) s
  let s := match c.sig with
    | some k => owe { id := c.order, die := t.die, ctx := c.ctx, va := k.1, key := if c.stale then none else some k.2, op := .dec } s
    | none => s
  { s with queues := s.queues.map fun q => if q.holds == some c.order then { q with holds := none } else q }

/-- What an abandoned copy still owes becomes zero bytes (R359): no other copy owes to those names (R17). -/
def placeZeros (c : Copy) (w : Wave) : Wave :=
  (fillsOf c.kind).foldl (fun w q => onMs q.1 q.2.1 (fun x => { x with zeros := x.owed != 0 }.topUp) w) w

/-- HRET of a copy fault (R347): the copy resumes at its chunk, once the Courier can work on it (R327), or is abandoned. -/
def resolveCopy (skip : Bool) (die core tag : Nat) (s : State) : State :=
  match findTag s die core tag with
  | some t =>
    match t.state, t.copy with
    | .fault, some c =>
      if skip then endCopy t c (onWave c.uid (placeZeros c) s)
      else onTag die core tag (fun t => { t with state := .busy, fault := none, copy := some { c with started := false } }) s
    | _, _ => s
  | none => s

/-! ### The arms -/

def execCpy (f : RF) (x : CpyX) (s : State) : Out := issueEng (courierFull []) (.cpy f x) s fun s => copyR f x.x (cpyCommand f x s) s
def execCpyg (f : RF) (x : CpygX) (s : State) : Out := issueEng (courierFull []) (.cpyg f x) s fun s => copyR f x.x (cpygCommand f x s) s
def execCpyh (f : RF) (x : CpyhX) (s : State) : Out := issueEng (courierFull []) (.cpyh f x) s fun s => copyR f x.x (cpyhCommand f x s) s
def execCpys (f : RF) (x : CpysX) (s : State) : Out :=
  issueEng (courierFull [(1, x.str.toNat % 4), (2, x.fm.toNat)]) (.cpys f x) s fun s => copyR f x.x (cpysCommand f x s) s
def execCpyq (f : RF) (x : CpyqX) (s : State) : Out :=
  issueEng (courierFull [(x.str.toNat / 4, x.str.toNat % 4)]) (.cpyq f x) s fun s => copyR f x.x (cpyqCommand f x s) s
def execTwait (f : RF) (s : State) : Out := issue (.twait f) s (twaitR f)
def execTffr (f : RF) (s : State) : Out := issue (.tffr f) s (tffrR f)
def execTclr (f : RF) (s : State) : Out := issue (.tclr f) s (tclrR f)

/-- COPY_CHUNK (R345): a waiting copy begins; a running one takes its next chunk, once its places are known again. -/
def execCopyChunk (die core tag : Nat) (s : State) : Out :=
  match findTag s die core tag with
  | some t =>
    match t.state, t.copy with
    | .busy, some c =>
      if !ctxRuns s c.ctx then .next s
      else if c.stale then
        .next (match refreshCopy t c s with
          | (s, some x) => { s with agenda := walkFor t.die c.ctx x.1 x.2 :: s.agenda }
          | (s, none) => s)
      else if c.started then .next (stepCopy t c s)
      else if mayBegin s t c then .next (setCopy t { c with started := true } s)
      else .next s
    | _, _ => .next s
  | none => .next s

/-- COPY_COMPLETE (R128, R344); a copy without elements completes at once (R328). -/
def execCopyComplete (die core tag : Nat) (s : State) : Out :=
  match findTag s die core tag with
  | some t =>
    match t.state, t.copy with
    | .busy, some c =>
      if ctxRuns s c.ctx && !c.stale && (c.started || chunkCount c == 0) && chunkCount c ≤ c.next then .next (endCopy t c s) else .next s
    | _, _ => .next s
  | none => .next s

end Sys2Proof.Machine
end

