-- ==== Sys2Proof/Machine/Dispatcher.lean ====
section
/-! DEFINITION. The dispatcher: queues and packets (R373 to R394), placement and retirement of teams and grids (R275, R276,
R388 to R390), coach bins and SPAWN (R395 to R400). -/
namespace Sys2Proof.Machine
open Sys2Proof

/-! ### Kernel entries (Table 2.16b) -/

/-- A kernel entry of an object: its D and L entry addresses, and its resources. -/
structure Kern where
  idx : Nat
  d : Option Nat
  l : Option Nat
  regs : Nat
  width : Nat
  waves : Nat
  regsL : Nat
  widthL : Nat
  stash : Nat
  coop : Bool
deriving DecidableEq, Repr, Inhabited

/-- Entry `j` of the kernel table of a version. -/
def Version.kern (v : Version) (j : Nat) : Kern :=
  let rd (off n : Nat) : Nat := v.num (v.num 0x18 8 + 64 * j + off) n
  let ones : Nat := 2 ^ 64 - 1
  { idx := j, d := if rd 8 8 == ones then none else some (v.sectionVa 1 / 8 + rd 8 8),
    l := if rd 16 8 == ones then none else some (v.sectionVa 2 / 4 + rd 16 8), regs := rd 24 2, width := rd 26 1, waves := rd 27 1,
    regsL := rd 28 2, widthL := rd 30 1, stash := rd 32 4, coop := bitAt (rd 36 4) 0 }
/-- Every kernel entry of a version. -/
def Version.kernels (v : Version) : List Kern := (List.range (v.num 0x20 4)).map v.kern

/-- The newest version that supersedes a version (R438). -/
def newest : Nat → List Version → Version → Version
  | 0, _, v => v
  | f + 1, vs, v => match v.next.bind fun n => vs.find? fun x => x.id == n with
    | some x => newest f vs x
    | none => v
/-- What KERN names (R378, R438): the version bound and its kernel entry. -/
def kernelNamed (s : State) (c kern : Nat) : Option (Version × Kern) :=
  match findCtx s c with
  | none => none
  | some x => x.vers.findSome? fun v =>
    let t := v.va.toNat + v.num 0x18 8
    let j := (kern - t) / 64
    if v.freed || v.retired || kern < t || (kern - t) % 64 != 0 || v.num 0x20 4 ≤ j then none
    else
      let n := newest x.vers.length x.vers v
      if n.freed || n.retired then none else some (n, n.kern j)

/-! ### Grids and priorities (R387) -/

/-- A queue's priority. -/
def queuePri (q : Queue) : Nat := bitsOf q.ctrl.toNat 5 4
/-- A field of the packet a queue holds. -/
def pktN (q : Queue) (off n : Nat) : Nat := bytesAt q.pkt off n
/-- TYPE, the barrier bit, RST and the scopes of a packet (Table 13.2). -/
def pktType (q : Queue) : Nat := bitsOf (pktN q 0 4) 3 0
def pktB (q : Queue) : Bool := bitAt (pktN q 0 4) 4
def pktRst (q : Queue) : Bool := bitAt (pktN q 0 4) 15
def pktRel (q : Queue) : Nat := bitsOf (pktN q 0 4) 14 10
/-- The wait list of a packet: (entry number, address) (R383). -/
def waitList (q : Queue) : List (Nat × Nat) :=
  (match pktType q with
    | 2 => (List.range 5).map fun (i : Nat) => (i, pktN q (8 + 8 * i) 8)
    | 0 => []
    | _ => [(0, pktN q 0x38 8)]).filter fun e => e.2 != 0
/-- Has the queue a packet fetched and not yet over? -/
def hasPacket (q : Queue) : Bool := q.state == .depwait || q.state == .start || q.state == .hold

/-- A packet fetched and not yet completed: its own priority, DONE, its queue, its place in that queue's order, and the signals
it waits for. -/
structure Pkt where
  ctx : Option Nat
  pri : Nat
  done : Nat
  slot : Option Nat
  order : Nat
  waits : List Nat
deriving DecidableEq, Repr, Inhabited
/-- The packet a queue holds, the last that it has fetched. -/
def queuePkt (s : State) (q : Queue) : Pkt :=
  { ctx := q.ctx, pri := queuePri q, done := pktN q 0x30 8, slot := some q.slot, order := s.nextId,
    waits := if q.state == .depwait then (waitList q).map (·.2) else [] }
/-- The packet that started a grid: its own priority is its queue's PRI, as that stands now. -/
def gridPkt (s : State) (g : Grid) : Pkt :=
  { ctx := some g.ctx, done := g.done.toNat, slot := g.queue, order := g.start, waits := [],
    pri := (((g.queue.bind (findQueue s)).filter fun q => q.ctx == some g.ctx).map queuePri).getD g.prio }
/-- The packet that a running copy carries out. -/
def copyPkt (s : State) (t : Tag) : Option Pkt :=
  match t.copy, t.queue.bind (findQueue s) with
  | some c, some q => some { ctx := some c.ctx, pri := queuePri q, done := (c.sig.map (·.1)).getD 0, slot := t.queue,
                             order := c.order, waits := [] }
  | _, _ => none
/-- Every packet fetched and not yet completed. -/
def livePkts (s : State) : List Pkt :=
  ((s.queues.filter hasPacket).map (queuePkt s)) ++ ((s.grids.filter fun g => g.queue.isSome).map (gridPkt s)) ++
    s.tags.filterMap (copyPkt s)
/-- The place of a signal that a packet of a context names, as the page tables have it. -/
def signalKey (s : State) (ctx : Option Nat) (va : Nat) : Option Nat :=
  ctx.bind fun c => match xlate 4 s 0 c va { walker := true } with | .ok k => some k | _ => none
/-- Does packet `q` wait for the signal that packet `p` names as DONE, under whatever address? -/
def waitsFor (s : State) (q p : Pkt) : Bool :=
  p.done != 0 && q.waits.any fun a => (q.ctx == p.ctx && a == p.done) ||
    match signalKey s q.ctx a, signalKey s p.ctx p.done with | some x, some y => x == y | _, _ => false
/-- Effective priority (R387): of the packets that wait for this one's DONE, and of the later ones of its queue. -/
def effPri : Nat → State → Pkt → Nat
  | 0, _, p => p.pri
  | f + 1, s, p =>
    (livePkts s).foldl (fun m q =>
      if waitsFor s q p || (q.ctx == p.ctx && q.slot == p.slot && p.order < q.order) then
        max m (effPri f s q)
      else m) p.pri
/-- The effective priority of a queue's packet. -/
def pktPri (s : State) (q : Queue) : Nat := effPri ((livePkts s).length + 1) s (queuePkt s q)

/-- The DISPATCH grid a grid is nested under. -/
def rootGrid : Nat → State → Grid → Grid
  | 0, _, g => g
  | f + 1, s, g => match g.parent.bind (findGrid s) with
    | some p => rootGrid f s p
    | none => g
/-- The effective priority of a grid, its teams and its bin waves. -/
def gridPri (s : State) (g : Grid) : Nat :=
  effPri ((livePkts s).length + 1) s (gridPkt s (rootGrid 11 s g))
/-- Changes a grid. -/
def onGrid (g : Nat) (f : Grid → Grid) (s : State) : State :=
  { s with grids := s.grids.map fun x => if x.uid == g then f x else x }
/-- The registers and width of a grid's waves on its class of core. -/
def Grid.wregs (g : Grid) : Nat := if g.lcore then g.regsL else g.regs
def Grid.wwidth (g : Grid) : Nat := if g.lcore then g.widthL else g.width

/-! ### Queue state (R373, R380, R386) -/

/-- Changes a queue slot. -/
def onQueue (slot : Nat) (f : Queue → Queue) (s : State) : State :=
  { s with queues := s.queues.map fun q => if q.slot == slot then f q else q }
/-- The die a queue slot belongs to. -/
def Queue.die (q : Queue) : Nat := q.slot / 64
/-- STATE codes of Table 13.5. -/
def QState.code : QState → Nat
  | .disabled => 0 | .idle => 1 | .fetch => 2 | .seqwait => 3 | .depwait => 4 | .start => 5 | .hold => 6 | .aborted => 7
  | .error => 8
/-- STATUS of a queue descriptor (Table 13.1). -/
def Queue.status (q : Queue) : Nat := q.state.code + q.abort * 256 + q.code * 65536
/-- The queue takes a new state, and STATUS and RIDX are written to its descriptor (R373). -/
def putQueue (q : Queue) (s : State) : State :=
  let s := onQueue q.slot (fun _ => q) s
  match q.ctx with
  | some c =>
    let put (off n x : Nat) (s : State) : State :=
      owe { id := 0, die := q.die, ctx := c, va := extend52 q.qdesc.toNat + off, key := none, op := .put (bytesOf n x) } s
    put 0x10 8 q.ridx (put 0x0C 4 q.status s)
  | none => s
/-- IDLE, or FETCH when the doorbell is ahead. -/
def Queue.rest (q : Queue) : Queue := { q with state := if q.ridx < q.doorbell then .fetch else .idle, latched := [] }
/-- The queue enters ERROR (R379). -/
def queueError (q : Queue) (code : Nat) (s : State) : State :=
  let s := putQueue { q with state := .error, code := code } s
  if bitAt q.ctrl.toNat 7 then sendMsix (bitsOf q.ctrl.toNat 23 8) s else s

/-! ### Signals (R382 to R385) -/

/-- Changes a signal once, at its home, as soon as it can be reached. -/
def updateSignal (die c va : Nat) (op : OwedOp) (s : State) : State :=
  if va == 0 then s else owe { id := 0, die := die, ctx := c, va := va, key := none, op := op } s
/-- The decrement of DONE (R384), and the stamp of an aborted packet's (R385). -/
def decDone (die c va : Nat) (s : State) : State := updateSignal die c va .dec s
def stampDone (die c va : Nat) (s : State) : State := updateSignal die c va .stamp s

/-- A packet that has not started is aborted (R385, R386). -/
def abortPacket (q : Queue) (c cause : Nat) (s : State) : State :=
  let s := stampDone q.die c (pktN q 0x30 8) s
  let q := { q with abort := cause, ridx := q.ridx + 1, latched := [] }
  putQueue (if cause == 4 || pktB q then { q with state := .aborted } else q.rest) s
/-- A packet has started (R381): `over` says that it has completed at its start, `order` names what HOLD waits for. -/
def packetStarted (q : Queue) (c : Nat) (ended : Bool) (order : Nat) (s : State) : State :=
  let s := if ended then decDone q.die c (pktN q 0x30 8) s else s
  let q := { q with ridx := q.ridx + 1, latched := [] }
  putQueue (if pktB q && !ended then { q with state := .hold, holds := some order } else q.rest) s

/-! ### Checks of a packet (R379) -/

/-- Are `n` bytes of a packet from an offset on zero? -/
def zeroAt (q : Queue) (off n : Nat) : Bool := pktN q off n == 0
/-- SCOPE codes 19 to 30 (R35). -/
def scopeOk (x : Nat) : Bool := x < 19 || x == 31
/-- The RESERVED check of Table 13.4. -/
def packetClean (q : Queue) : Bool :=
  let h := pktN q 0 4
  let done := pktN q 0x30 8
  scopeOk (bitsOf h 14 10) && scopeOk (bitsOf h 9 5) && done % 8 == 0 && ((waitList q).all fun w => w.2 % 8 == 0) &&
  match pktType q with
  | 0 => zeroAt q 4 44 && zeroAt q 0x38 8
  | 1 => bitsOf (pktN q 0x24 4) 31 2 == 0 && pktN q 0x28 8 % 65536 == 0
  | 2 => zeroAt q 4 4 && zeroAt q 0x38 8
  | 3 => bitsOf (pktN q 4 4) 31 4 == 0 && bitsOf (pktN q 4 4) 2 0 ≤ 4 && (bitAt (pktN q 4 4) 3 || zeroAt q 0x24 12)
  | _ => pktN q 4 4 ≤ 1 && pktN q 8 8 % 8 == 0 && bitsOf (pktN q 0x18 4) 30 16 == 0 && zeroAt q 0x1C 20

/-- The declared allocation rounded up, the allocation with its frames, and the window's span (R275, R276, R417). -/
def allocOf (stash : Nat) : Nat := roundUp stash 4096
def sizeOf_ (stash waves : Nat) : Nat := allocOf stash + roundUp (4288 * waves) 4096
def spanOf (stash waves : Nat) : Nat := roundUp (sizeOf_ stash waves) 65536
/-- Cores of a class. -/
def coresOf (isL : Bool) : List Nat := if isL then (List.range 4).map (· + 16) else List.range 16
/-- The dies a DISPATCH names (R388). -/
def pktDies (q : Queue) : List Nat :=
  let m := pktN q 0x18 8
  if m == 0 then [q.die] else (List.range 64).filter fun d => bitAt m d
/-- May the context use the die for a class of core? -/
def dieUsable (s : State) (c : Nat) (isL : Bool) (die : Nat) : Bool := (coresOf isL).any fun k => mayUse s c die k

/-- The code of Table 13.4 that a DISPATCH packet's kernel or limits give; none where it passes. -/
def dispatchError (s : State) (c : Nat) (q : Queue) : Option Nat :=
  let lcore := bitAt (pktN q 0x24 4) 1
  let teams := pktN q 4 4
  match kernelNamed s c (pktN q 8 8) with
  | none => some 3
  | some (_, k) =>
    if (if lcore then k.l else k.d).isNone then some 3
    else
      let win := pktN q 0x28 8
      if teams == 0 || 2 ^ 24 < teams || !((pktDies q).any (dieUsable s c lcore)) ||
          (win != 0 && (win < descN s c 0x0C0 8 ||
            descN s c 0x0C0 8 + descN s c 0x0C8 8 < win + teams * spanOf k.stash k.waves)) then some 4
      else none

/-- The addresses a packet's checks translate (R382), and what is wanted. -/
def packetAddrs (q : Queue) : List (Nat × Want) :=
  let done := pktN q 0x30 8
  (if done == 0 then [] else [(done, rwWant)]) ++ ((waitList q).map fun w => (w.2, { rdWant with refused := noMmio })) ++
  (match pktType q with
    | 1 => [(pktN q 8 8, rdWant)]
    | 4 => [(pktN q 8 8, if pktN q 4 4 == 0 then { wrWant with refused := noMmio } else rwWant)]
    | _ => [])

/-- Translates a packet's addresses: done, failed, or still waiting for a walk. -/
def checkAddrs (die c : Nat) : List (Nat × Want) → State → State × Option Bool
  | [], s => (s, some true)
  | (a, w) :: t, s => match reach s die c a 8 w with
    | (s, .ok _) => checkAddrs die c t s
    | (s, .fault _ _ _) => (s, some false)
    | (s, .miss) => (s, none)

/-- The packet just read is checked (R379, R385, R393); it then waits, is aborted, or stops its queue. -/
def takePacket (q : Queue) (c : Nat) (s : State) : State :=
  let chain := q.state == .aborted && !pktRst q
  if 5 ≤ pktType q then queueError q 1 s
  else if !packetClean q then queueError q 2 s
  else match checkAddrs q.die c (packetAddrs q) s with
    | (s, none) => s
    | (s, some false) => queueError q 5 s
    | (s, some true) =>
      match if pktType q == 1 then dispatchError s c q else none with
      | some code => queueError q code s
      | none =>
        if assist s c 1 && (pktType q == 2 || pktType q == 4 || pktB q || !(waitList q).isEmpty) then queueError q 6 s
        else if chain then abortPacket q c 4 s
        else putQueue { q with state := .depwait, latched := [] } s

/-- Reads the ring slot at RIDX as one line (R376). -/
def readSlot (q : Queue) (c : Nat) (s : State) : State × Option (List Byte) × Bool :=
  let a := q.ring.toNat + 64 * (q.ridx % 2 ^ bitsOf q.ctrl.toNat 3 0)
  match engineRead s q.die c a 64 rdWant with
  | (s, .ok, b) => (s, some b, false)
  | (s, .lost, _) => (s, none, true)
  | (s, .wait, _) => (s, none, false)

/-- A slot is read: a matching SEQ ends SEQWAIT (Table 13.5), and in FETCH makes the bytes read with it the packet (R376, R377).
-/
def fetchSlot (q : Queue) (c : Nat) (s : State) : State :=
  match readSlot q c s with
  | (s, some b, _) =>
    if bitsOf (bytesAt b 0 4) 31 16 != q.ridx % 65536 then
      putQueue { q with state := if q.state == .aborted then .aborted else .seqwait } s
    else if q.state == .seqwait then putQueue { q with state := .fetch } s
    else takePacket { q with pkt := b } c s
  | (s, none, true) => queueError q 5 s
  | (s, none, false) => s

/-- An attached queue of a context that runs (R394). -/
def runningQueue (s : State) (die q : Nat) : Option (Queue × Nat) :=
  match findQueue s (64 * die + q) with
  | some x => match x.ctx with
    | some c => if ctxRuns s c then some (x, c) else none
    | none => none
  | none => none
/-- Is there a position to fetch? -/
def wantsFetch (q : Queue) : Bool := (q.state == .fetch || q.state == .aborted) && q.ridx < q.doorbell
/-- Does a queue come before others of its die when packets are fetched (R387)? One in ABORTED whose slot's SEQ does not match
yet holds none up, as one in SEQWAIT does not. -/
def fetchesFirst (s : State) (q : Queue) : Bool :=
  wantsFetch q && q.ctx.any (ctxRuns s) && (q.state == .fetch || match q.ctx.map fun c => readSlot q c s with
    | some (_, some b, _) => bitsOf (bytesAt b 0 4) 31 16 == q.ridx % 65536
    | _ => false)

/-! ### The start of a packet (R381, R388, R391, R392) -/

/-- The state of a context's next grid. -/
def gridOf (q : Queue) (c : Nat) (v : Version) (k : Kern) (gid uid : Nat) : Grid :=
  let ds := pktDies q
  { uid := uid, gid := gid, ctx := c, depth := 1, parent := none, raster := false, teams := pktN q 4 4,
    unplaced := (List.range (pktN q 4 4)).map fun (t : Nat) => (t, ds.getD (t % ds.length) 0), ver := v.id,
    entryD := k.d.getD 0, entryL := k.l.getD 0, lcore := bitAt (pktN q 0x24 4) 1, regs := k.regs, width := k.width,
    waves := k.waves, stash := k.stash, regsL := k.regsL, widthL := k.widthL, winva := pktN q 0x28 8,
    args := BitVec.ofNat 64 (pktN q 0x10 8), seed := BitVec.ofNat 32 (pktN q 0x20 4),
    coop := bitAt (pktN q 0x24 4) 0 || k.coop, prio := queuePri q, start := uid, released := 0, queue := some q.slot,
    done := BitVec.ofNat 64 (pktN q 0x30 8), rel := pktRel q }

/-- The resources a launch asks for (R388, R398): its place in the grid, its waves' lanes, s4 and first registers. -/
structure Launch where
  index : Nat
  waves : Nat
  width : Nat
  s4 : Nat
  exited : Mask
  v : Store W32
deriving DecidableEq, Repr, Inhabited

/-- Places in a sub-core for a wave: a free slot, quad positions and rows, and a split-table entry (R138, R139, R141). -/
def subSpot (s : State) (die core sub width regs : Nat) : Option (List Nat × Nat × Nat × Nat) :=
  let isL := decide (16 ≤ core)
  let ws := (allWaves s).filter (Wave.onSub die core sub)
  let slots := (List.range (if isL then 8 else 16)).filter fun x => !(ws.any fun w => w.slot == x)
  let entries := (List.range (if isL then 8 else 32)).filter fun e => !(ws.any fun w => w.hasEntry e)
  let n := width / 4
  let rows := if isL then 512 else 1024
  let spots := (List.range (if rows < regs then 0 else (rows - regs) / 32 + 1)).flatMap fun (r : Nat) =>
    (List.range ((if isL then 4 else 16) / n)).map fun (p : Nat) => (p * n, 32 * r)
  let free (p : Nat × Nat) : Bool := ws.all fun w =>
    !(rangesMeet w.qbase (w.width / 4) p.1 n && rangesMeet w.rbase w.regs p.2 regs)
  match entries, spots.find? free with
  | e :: _, some p => if slots.isEmpty then none else some (slots, p.1, p.2, e)
  | _, _ => none

/-- LF of a new wave (R146). -/
def launchLf (seed : W32) (team wave : Nat) : W32 :=
  let x := seed ^^^ BitVec.ofNat 32 (team * 16 ||| wave)
  if x == 0#32 then 1#32 else x
/-- MODE of a new wave (R49, R50, R68, R414). -/
def launchMode (s : State) (c ver : Nat) (isL : Bool) : W32 :=
  let v := findVer s c ver
  let b (x : Bool) (n : Nat) : W32 := if x then 1#32 <<< n else 0
  modeReset ||| (BitVec.ofNat 32 ((v.map (·.compat)).getD 0) <<< 8) ||| b (cflag s c 0) 7 |||
    b (!isL && (v.map (·.native)).getD false) 5
/-- The scalar registers of a new wave (Table 13.7). -/
def launchS (args : W64) (win s4 depth : Nat) : Store W32 :=
  [(0, lo32 args), (1, hi32 args), (2, BitVec.ofNat 32 win), (3, BitVec.ofNat 32 (win / 2 ^ 32)), (4, BitVec.ofNat 32 s4),
   (5, BitVec.ofNat 32 depth)].foldl (fun (r : Store W32) x => Store.set 0 r x.1 x.2) []

/-- A new wave of a team in a sub-core. -/
def launchWave (s : State) (g : Grid) (x : Launch) (t : Team) (i sub : Nat) (spot : List Nat × Nat × Nat × Nat) : Wave :=
  let root := rootGrid 11 s g
  let isL := decide (16 ≤ t.core)
  { Wave.noWave with
    live := true, uid := s.nextId, ctx := g.ctx, die := t.die, core := t.core, sub := sub,
    slot := spot.1.getD (choose s 13 spot.1.length) 0, team := t.id, grid := g.uid, waveId := i, width := x.width,
    regs := g.wregs, qbase := spot.2.1, rbase := spot.2.2.1, ver := g.ver, mode := launchMode s g.ctx g.ver isL,
    s := launchS root.args t.win x.s4 g.depth, v := x.v, exited := x.exited, fence := s.nextId,
    cur := { Split.empty with
      idx := spot.2.2.2, mask := Mask.low x.width &&& ~~~x.exited,
      pc := BitVec.ofNat 49 (if isL then g.entryL else g.entryD), born := s.nextId, lf := launchLf root.seed x.index i } }

/-- Launches the waves of a team on its core, all or none (R137, R388). -/
def launchWaves (g : Grid) (x : Launch) (t : Team) : List Nat → State → Option State
  | [], s => some s
  | i :: is, s =>
    let subs := (List.range (if 16 ≤ t.core then 2 else 8)).filterMap fun (b : Nat) =>
      (subSpot s t.die t.core b x.width g.wregs).map fun p => (b, p)
    if subs.isEmpty then none
    else
      let p := subs.getD (choose s 12 subs.length) (0, [], 0, 0, 0)
      launchWaves g x t is { s with bg := launchWave s g x t i p.1 p.2 :: s.bg, nextId := s.nextId + 1 }

/-- The lowest start at or above `lo` where `n` units fit beside the used ranges. -/
def lowestFree (used : List (Nat × Nat)) (lo hi n step : Nat) : Option Nat :=
  let starts := (lo :: used.map fun r => roundUp (r.1 + r.2) step).filter fun a =>
    lo ≤ a && a + n ≤ hi && !(used.any fun r => rangesMeet r.1 r.2 a n)
  starts.foldl (fun (b : Option Nat) a => match b with
    | some y => some (min a y)
    | none => some a) none

/-- The stash allocations of an image that are still in the stash. -/
def Image.held (i : Image) : List Team := i.teams.filter fun t => !(i.outs.any fun o => o.1 == t.id)
/-- Every team that holds stash, saved ones' included until it is written out (R430). -/
def heldTeams (s : State) : List Team :=
  s.teams ++ s.images.flatMap Image.held
/-- Writes the words of a save slot that describe its image, and the image's bytes, whose number and layout are the
implementation's (Table 14.19); or, of a slot that holds one, that it holds none. -/
def imageWords (c die core : Nat) (held : Bool) (s : State) : State :=
  match saveSlot s c die core with
  | none => s
  | some k =>
    if held then
      let n := 1 + (Config.undefWord s.freeCtr 31 core).toNat % (7 * 2 ^ 20 - 64)
      let s := memUndef (recallBytes (k + 2 ^ 20 + 64) n s) (k + 2 ^ 20 + 64) n
      writeHome s (k + 2 ^ 20) (bytesOf 8 n ++ bytesOf 4 Config.stepTag ++ bytesOf 4 c)
    else if cohNat s (k + 2 ^ 20) 8 == 0 then s
    else writeHome s (k + 2 ^ 20) (bytesOf 8 0)
/-- Does a copy of another context own bytes of what a save slot holds of a core, or of a die's engines (R127)? A context's own
copies release theirs at a save (R349). -/
def slotOwned (s : State) (c die core : Nat) : Bool :=
  (saveSlot s c die core).any fun k => s.tags.any fun t => t.copy.any fun x =>
    x.ctx != c && x.owned.any fun r => rangesMeet r.1 r.2 k (8 * 2 ^ 20)
/-- Changes the image of a context's core. -/
def onImage (c die core : Nat) (f : Image → Image) (s : State) : State :=
  { s with images := s.images.map fun x => if x.ctx == c && x.die == die && x.core == core then f x else x }
/-- The stash allocations of an image leave the stash for the save area (R430). -/
def spillStash (i : Image) (s : State) : State :=
  let key (t : Team) : Nat := stashKey t.die t.core t.off
  let outs := i.outs ++ i.held.map fun t => (t.id, memTake s (key t) t.size)
  let s := i.held.foldl (fun s t => memZero s (key t) t.size) s
  if i.held.isEmpty then s else imageWords i.ctx i.die i.core true (onImage i.ctx i.die i.core (fun x => { x with outs := outs }) s)
/-- Makes room in a core's stash for a context: the allocations of other contexts' images are written out (R430), where no copy
owns their slots' bytes. -/
def makeRoom (c die core : Nat) (s : State) : State :=
  (s.images.filter fun x => x.ctx != c && x.die == die && x.core == core && !slotOwned s x.ctx die core).foldl
    (fun s x => spillStash x s) s
/-- The dispatcher reads a context's descriptor, as it loads the context onto cores, launches a grid of it or pre-empts it
(R20, R414, assumption 41). -/
def reloadDesc (c : Nat) (s : State) : State :=
  match findCtx s c with
  | some x =>
    let s := recallBytes x.descKey 640 s
    onCtx c (fun x => { x with desc := cohRead s x.descKey 640 }) s
  | none => s

/-- Does a copy own bytes of a context's descriptor, so that its reads wait (R127)? -/
def descOwned (s : State) (c : Nat) : Bool := (findCtx s c).any fun x => copyOwns s x.descKey 640
/-- A free stash offset of a core. -/
def stashSpot (s : State) (die core size : Nat) : Option Nat :=
  lowestFree ((heldTeams s).filterMap fun t => if t.die == die && t.core == core then some (t.off, t.size) else none)
    0 (if 16 ≤ core then 2 ^ 20 else 3 * 2 ^ 20) size 4096
/-- A window address for a team (R276). -/
def windowSpot (s : State) (g : Grid) (index span : Nat) : Option Nat :=
  let used := (s.teams ++ s.images.flatMap (·.teams)).filterMap fun t =>
    if t.ctx == g.ctx then some (t.win, roundUp t.size 65536) else none
  let base := descN s g.ctx 0x0C0 8
  if g.winva != 0 then
    let a := g.winva + index * span
    if used.any fun r => rangesMeet r.1 r.2 a span then none else some a
  else lowestFree used base (base + descN s g.ctx 0x0C8 8) span 65536

/-- The window array entry of a page of a team (R276). -/
def windowEntry (t : Team) (page : Nat) : Nat × Nat :=
  let va := t.win + 4096 * page
  let sup := if t.alloc ≤ 4096 * page then 32 else 0
  (2 ^ 63 + va % 2 ^ 52 / 4096 * 4096 + 2 * 512 + 128 + 64 + sup + 8 + 4,
   t.die * 2 ^ 58 + t.core * 2 ^ 48 + t.off + 4096 * page)
/-- Writes (or with `on` false clears) the window array entries of a team and drops the range's translations; the answer
says whether the array could be reached (R276, R434). -/
def mapWindow (on : Bool) (t : Team) (s : State) : State × Served :=
  let worse (a b : Served) : Served := if a == .ok then b else a
  let base := descN s t.ctx 0x0C0 8
  let pt := descN s t.ctx 0x0D0 8
  let want : Want := { rd := true, wr := true, walker := true }
  let r := (List.range (t.size / 4096)).foldl (fun (r : State × Served) i =>
    let e := if on then windowEntry t i else (0, 0)
    let a := pt + 16 * ((t.win - base) / 4096 + i)
    let (s, ok1) := if on then engineWrite r.1 t.die t.ctx (a + 8) (bytesOf 8 e.2) want else (r.1, .ok)
    let (s, ok2) := engineWrite s t.die t.ctx a (bytesOf 8 e.1) want
    (s, worse r.2 (worse ok1 ok2))) (s, .ok)
  (dropEntries (tlbOverlaps t.ctx t.win t.size) r.1, r.2)
/-- The stash of a team, whose contents at launch are undefined (R275), and the same when it is released. -/
def freshStash (t : Team) (s : State) : State := memUndef s (stashKey t.die t.core t.off) t.size
def clearStash (t : Team) (s : State) : State := memZero s (stashKey t.die t.core t.off) t.size

/-- Places a team on one core, with its stash, window and waves; saved contexts' allocations make room for it (R430). Where it
is only asked whether cores hold it (`real` false), the window array is left as it is. -/
def launchOn (real : Bool) (g : Grid) (x : Launch) (die core : Nat) (s : State) : Option State :=
  let alloc := allocOf g.stash
  let size := sizeOf_ g.stash x.waves
  let s := if (stashSpot s die core size).isSome then s else makeRoom g.ctx die core s
  if !mayUse s g.ctx die core then none
  else match stashSpot s die core size, windowSpot s g x.index (roundUp size 65536) with
    | some off, some win =>
      let t : Team :=
        { id := s.nextId, ctx := g.ctx, grid := g.uid, index := x.index, die := die, core := core, alloc := alloc, size := size,
          off := off, win := win, waves := x.waves, bars := [], maps := [], dirty := [] }
      let s := { s with nextId := s.nextId + 1 }
      match if real then mapWindow true t s else (s, .ok) with
      | (s, .ok) => launchWaves g x t (List.range x.waves) (freshStash t { s with teams := s.teams ++ [t] })
      | _ => none
    | _, _ => none
/-- Places a team on a core of a die: one of those where it fits. -/
def launchDie (real : Bool) (g : Grid) (x : Launch) (die : Nat) (s : State) : Option State :=
  let ok := (coresOf g.lcore).filterMap fun k => launchOn real g x die k s
  if ok.isEmpty then none else ok[choose s 11 ok.length]?

/-- The launch of a DISPATCH grid's team. -/
def teamLaunch (g : Grid) (index : Nat) : Launch :=
  { index := index, waves := g.waves, width := g.wwidth, s4 := g.teams, exited := 0, v := [] }
/-- Places unplaced teams in order, all or none. -/
def launchTeams (real : Bool) (g : Grid) : List (Nat × Nat) → State → Option State
  | [], s => some s
  | (i, die) :: t, s => (launchDie real g (teamLaunch g i) die s).bind fun s =>
    launchTeams real g t (onGrid g.uid (fun g => { g with unplaced := g.unplaced.filter fun u => u.1 != i }) s)
/-- Could every team of a cooperative grid be resident on idle cores (R389)? -/
def coopFits (s : State) (g : Grid) : Bool :=
  (launchTeams false g g.unplaced { s with wave := Wave.noWave, bg := [], teams := [], images := [] }).isSome

/-- The next GRIDID of a context: the first from its counter on, in 32 bits, that no live grid has (R390). -/
def freshGid (s : State) (c : Nat) : Nat :=
  let n := ((findCtx s c).map (·.nextGid)).getD 0
  let id (i : Nat) : Nat := (n + i) % 2 ^ 32
  id (((List.range (s.grids.length + 1)).find? fun i => !(s.grids.any fun g => g.ctx == c && g.gid == id i)).getD 0)
/-- The start of a DISPATCH (R388 to R390). -/
def startDispatch (q : Queue) (c : Nat) (s : State) : State :=
  if descOwned s c then s
  else
  let s := reloadDesc c s
  match kernelNamed s c (pktN q 8 8), findCtx s c with
  | some (v, k), some _ =>
    let g := gridOf q c v k (freshGid s c) s.nextId
    if g.coop && !coopFits s g then abortPacket q c 2 s
    else
      let s := onCtx c (fun x => { x with nextGid := g.gid + 1 }) s
      packetStarted q c false g.uid { s with grids := s.grids ++ [g], nextId := s.nextId + 1 }
  | _, _ => queueError q 3 s

/-- The copy of a COPY packet (R391). -/
def packetCopy (q : Queue) (c order : Nat) : Copy :=
  let ctl := pktN q 4 4
  let w (off : Nat) : W32 := BitVec.ofNat 32 (pktN q off 4)
  let dims := (pktN q 0x18 4, w 0x1C, w 0x20) :: if bitAt ctl 3 then [(pktN q 0x24 4, w 0x28, w 0x2C)] else []
  { newCopy (.cpy (2 ^ bitsOf ctl 2 0) dims) (BitVec.ofNat 64 (pktN q 8 8)) (BitVec.ofNat 64 (pktN q 0x10 8)) 0 with
    uid := order, ctx := c, order := order }
/-- Are the bases and strides of a packet's copy multiples of its element size (R328)? -/
def copyAligned (c : Copy) : Bool :=
  match c.kind with
  | .cpy e dims => c.src.toNat % e == 0 && c.dst.toNat % e == 0 &&
      dims.all fun d => d.2.1.toNat % e == 0 && d.2.2.toNat % e == 0
  | _ => true
/-- The lowest core of a die whose Courier's queue has room (R391), with its lowest FREE tag (R321); none while there is
neither. -/
def courierRoom (s : State) (die : Nat) : Option (Nat × Nat) :=
  ((List.range 20).find? fun k => waitingCopies s die k < 32).bind fun k => (freeTag s die k).map fun t => (k, t)

/-- The start of a COPY (R391): a Courier accepts it, or it aborts, or it waits. -/
def startCopy (q : Queue) (c : Nat) (s : State) : State :=
  let copy := packetCopy q c s.nextId
  let done := pktN q 0x30 8
  if s.queues.any fun x => x.die == q.die && x.state == .start && pktType x == 3 && x.ctx.any (ctxRuns s) && pktPri s q < pktPri s x then s
  else match courierRoom s q.die with
  | none => s
  | some (core, tag) =>
    if !copyAligned copy then abortPacket q c 3 s
    else match placesOf s q.die c dstWant (destPieces copy),
               placesOf s q.die c sigWant (if done == 0 then [] else [(done, 8)]) with
      | .miss va, _ => walkFill 4 s q.die c va dstWant
      | _, .miss va => walkFill 4 s q.die c va sigWant
      | .fault _ _ _, _ => abortPacket q c 3 s
      | _, .fault _ _ _ => abortPacket q c 3 s
      | .ok ds, .ok ks =>
        let copy := { copy with sig := ks.head?.map fun k => (done, k.1), dest := joinRuns ds, owned := joinRuns ds }
        let t : Tag :=
          { die := q.die, core := core, tag := tag, state := .busy, team := none, queue := some q.slot, fault := none,
            copy := some copy }
        packetStarted q c false copy.order { s with tags := s.tags ++ [t], nextId := s.nextId + 1 }

/-- A COPY packet's copy has met a fault (R385, R391): its tag is freed, DONE stamped, a queue that holds for it aborted. -/
def abortCopy (t : Tag) (s : State) : State :=
  match t.copy, t.queue.bind (findQueue s) with
  | some c, some q =>
    let s := dropTag t.die t.core t.tag s
    let s := match c.sig with | some k => stampDone t.die c.ctx k.1 s | none => s
    let q := { q with abort := 3 }
    putQueue (if q.holds == some c.order then { q with holds := none, state := .aborted } else q) s
  | _, _ => s

/-- The start of a SIGNAL (R392): its access, its message, then DONE. -/
def startSignal (q : Queue) (c : Nat) (s : State) : State :=
  let add := pktN q 4 4 == 1
  let val := pktN q 0x10 8
  match reach s q.die c (pktN q 8 8) 8 (if add then rwWant else { wrWant with refused := noMmio }) with
  | (s, .ok k) =>
    let s := recallBytes k 8 s
    let s := writeHome s k (bytesOf 8 (if add then (cohNat s k 8 + val) % 2 ^ 64 else val))
    let s := if bitAt (pktN q 0x18 4) 31 then sendMsix (bitsOf (pktN q 0x18 4) 15 0) s else s
    packetStarted q c true 0 s
  | (s, .fault _ _ _) => queueError q 5 s
  | (s, .miss) => s

/-- The start of a packet in START, by its TYPE. -/
def startPacket (q : Queue) (c : Nat) (s : State) : State :=
  match pktType q with
  | 1 => startDispatch q c s
  | 3 => startCopy q c s
  | 4 => startSignal q c s
  | _ => packetStarted q c true 0 s
/-- A packet of the given TYPE in START starts. -/
def startTyped (ty die q : Nat) (s : State) : State :=
  match runningQueue s die q with
  | some (x, c) => if x.state == .start && pktType x == ty then startPacket x c s else s
  | none => s

/-- Reads the unlatched entries of a wait list (R383). -/
def readWaits_ (q : Queue) (c : Nat) : List (Nat × Nat) → State → State × List Nat × Option Nat
  | [], s => (s, q.latched, none)
  | (i, a) :: t, s =>
    let (s, l, stop) := readWaits_ q c t s
    if q.latched.contains i then (s, l, stop)
    else match engineRead s q.die c a 8 rdWant with
      | (s, .ok, b) =>
        let x := natOfBytes b
        if x == 0 then (s, i :: l, stop) else if 2 ^ 63 ≤ x then (s, l, some 1) else (s, l, stop)
      | (s, .lost, _) => (s, l, if stop == some 1 then stop else some 5)
      | (s, .wait, _) => (s, l, stop)

/-! ### What is placed next (R388, R389, R398, R399) -/

/-- The bin of a number on a die. -/
def findBin (s : State) (die n : Nat) : Option Bin := s.bins.find? fun b => b.die == die && b.num == n
/-- Has a grid a raster batch that may still write records? -/
def hasBatch (s : State) (g : Nat) : Bool := s.dies.any fun d => d.raster.any fun b => b.grid == g && b.phase < 2
/-- Has every wave of a grid exited, and can it get no further one (R398; Table 16.7)? -/
def gridClosed : Nat → State → Grid → Bool
  | 0, _, _ => false
  | f + 1, s, g =>
    g.unplaced.isEmpty && !((allWaves s).any fun w => w.grid == g.uid && w.liveLanes != 0#64) &&
    !(s.images.any fun i => i.waves.any fun w => w.grid == g.uid && w.liveLanes != 0#64) &&
    !(s.bins.any fun b => b.child == g.uid) &&
    match g.parent.bind (findGrid s) with
    | some p => gridClosed f s p && !hasBatch s p.uid
    | none => true
/-- TIMER and AGE of BINCFG in fabric cycles at the nominal rate (Table 13.8). -/
def binTimer (s : State) (c : Nat) : Nat := bitsOf (descN s c 0x00C 4) 7 0 * 500
def binAge (s : State) (c : Nat) : Nat := bitsOf (descN s c 0x00C 4) 15 8 * 2000
/-- The age of a bin's oldest record. -/
def Bin.oldest (b : Bin) : Nat := (b.recs.head?.map (·.age)).getD 0
/-- Is a bin eligible for release (R398)? -/
def eligible (s : State) (b : Bin) : Bool :=
  match findGrid s b.child, findGrid s b.parent with
  | some g, some p => ctxRuns s g.ctx && !b.recs.isEmpty && (g.wwidth ≤ b.recs.length || b.timed || gridClosed 11 s p)
  | some g, none => ctxRuns s g.ctx && !b.recs.isEmpty
  | none, _ => false
/-- Is bin `a` chosen before bin `b` (R399)? -/
def binBefore (s : State) (a b : Bin) : Bool :=
  let old (x : Bin) : Bool := match findGrid s x.child with
    | some g => binAge s g.ctx != 0 && binAge s g.ctx < x.oldest
    | none => false
  if old a != old b then old a
  else if old a then (if a.oldest != b.oldest then b.oldest < a.oldest else a.num < b.num)
  else if a.recs.length != b.recs.length then b.recs.length < a.recs.length
  else if a.oldest != b.oldest then b.oldest < a.oldest else a.num < b.num

/-- What waits for a die. -/
inductive Item where
  | bin (b : Bin)
  | team (g : Grid) (index : Nat)
deriving DecidableEq, Repr, Inhabited

/-- The first item of a priority on a die (R388). -/
def firstItem (s : State) (die pri : Nat) : Option Item :=
  let bins := s.bins.filter fun b => b.die == die && eligible s b &&
    (findGrid s b.child).any fun g => gridPri s g == pri
  match bins.foldl (fun (x : Option Bin) b => match x with
      | some y => if binBefore s b y then some b else some y
      | none => some b) none with
  | some b => some (.bin b)
  | none =>
    (s.grids.filter fun g => ctxRuns s g.ctx && (g.unplaced.any fun u => u.2 == die) && gridPri s g == pri).foldl
      (fun (x : Option (Nat × Item)) g =>
        let i := ((g.unplaced.find? fun u => u.2 == die).map (·.1)).getD 0
        match x with
        | some (st, y) => if g.start < st then some (g.start, .team g i) else some (st, y)
        | none => some (g.start, .team g i)) none |>.map (·.2)

/-- The width of a bin's wave of `n` records (R398). -/
def binWidth (full n : Nat) : Nat := if full ≤ n then full else ([4, 8, 16, 32].find? fun w => n ≤ w && w ≤ full).getD full
/-- The launch of a bin's wave. -/
def binLaunch (g : Grid) (b : Bin) : Launch :=
  let rs := b.recs.take g.wwidth
  let width := binWidth g.wwidth rs.length
  { index := g.released, waves := 1, width := width, s4 := rs.length, exited := Mask.low width &&& ~~~Mask.low rs.length,
    v := ((List.range rs.length).zip rs).foldl (fun (v : Store W32) x =>
      ((List.range x.2.words.length).zip x.2.words).foldl (fun v y => Store.set 0 v (64 * y.1 + x.1) y.2) v) [] }
/-- The bin after its release: its timer is its new oldest record's age; an empty bin closes. -/
def binAfter (n : Nat) (b : Bin) (s : State) : State :=
  let timer := match findGrid s b.child with | some g => binTimer s g.ctx | none => 0
  { s with bins := s.bins.filterMap fun x =>
      if x.die == b.die && x.num == b.num then
        (let x := { x with recs := x.recs.drop n }
         if x.recs.isEmpty then none else some { x with timed := timer != 0 && timer ≤ x.oldest })
      else some x }

/-- Places an item, whatever else waits; none where it does not fit. -/
def fitItem (s : State) (die : Nat) : Item → Option State
  | .bin b => match findGrid s b.child with
    | some g =>
      let x := binLaunch g b
      (launchDie true g x die s).map fun s =>
        binAfter (min b.recs.length g.wwidth) b (onGrid g.uid (fun g => { g with released := g.released + 1 }) s)
    | none => none
  | .team g i => launchTeams true g (if g.coop then g.unplaced else [(i, die)]) s
/-- The priorities, highest first. -/
def priorities : List Nat := [3, 2, 1, 0]
/-- Does a cooperative grid of a priority wait for a die? -/
def coopWaits (s : State) (die pri : Nat) : Bool :=
  s.grids.any fun g => g.coop && ctxRuns s g.ctx && (g.unplaced.any fun u => u.2 == die) && gridPri s g == pri

/-! ### Retirement (R275, R322, R390, R438) -/

/-- Has a team a wave left, resident or saved? -/
def teamBusy (s : State) (t : Team) : Bool :=
  (allWaves s).any (fun w => w.team == t.id) || s.pend.any fun p => p.team == t.id
/-- The tags a team holds. -/
def teamTags (s : State) (t : Team) : List Tag := s.tags.filter fun x => x.team == some t.id
/-- A team retires: dirty lines go home, tags are freed, its window is unmapped, once its array can be reached, and its stash
discarded. -/
def retireTeam (t : Team) (s : State) : State :=
  let s := t.dirty.foldl (fun s d => writeBackLine t.id d s) s
  let (u, served) := mapWindow false t s
  if served == .wait then s
  else
  let s := clearStash t u
  { s with tags := s.tags.filter fun x => x.team != some t.id, teams := s.teams.filter fun x => x.id != t.id }

/-- May a grid retire (R390)? -/
def gridDone (s : State) (g : Grid) : Bool :=
  gridClosed 11 s { g with parent := none } && !hasBatch s g.uid && !((allWaves s).any fun w => w.grid == g.uid) &&
  !(s.teams.any fun t => t.grid == g.uid) && !(s.images.any fun i => i.teams.any fun t => t.grid == g.uid) &&
  !(s.bins.any fun b => b.parent == g.uid) && !(s.grids.any fun x => x.parent == some g.uid)
/-- Is a version referenced by a grid (R437)? -/
def verUsed (s : State) (c v : Nat) : Bool := s.grids.any fun g => g.ctx == c && g.ver == v
/-- Frees the retired versions of a context whose last reference has gone (R438). -/
def freeVers (c : Nat) (s : State) : State :=
  let free (v : Version) : Version := if v.retired && !verUsed s c v.id then { v with freed := true } else v
  onCtx c (fun x => { x with vers := x.vers.map free }) s
/-- A grid retires: its packet completes (R381, R384, R390). -/
def retireGrid (g : Grid) (s : State) : State :=
  let s := freeVers g.ctx { s with grids := s.grids.filter fun x => x.uid != g.uid }
  match g.queue with
  | none => s
  | some slot =>
    let s := decDone (slot / 64) g.ctx g.done.toNat s
    match findQueue s slot with
    | some q => if q.holds == some g.uid then putQueue { q with holds := none }.rest s else s
    | none => s

/-! ### SPAWN (R395 to R397) -/

/-- The kernel that an entry address names, for the wave's version and class (R397). -/
def entryKern (s : State) (w : Wave) (e : Nat) : Option Kern :=
  match findVer s w.ctx w.ver with
  | none => none
  | some v =>
    let unit := if w.isL then 4 else 8
    if e % unit != 0 then none
    else v.kernels.find? fun k =>
      ((if w.isL then k.l else k.d).map fun p => p * unit % 2 ^ 52) == some e
/-- An entry address's bits, and the payload's words, for a lane. -/
def spawnEntry (f : RF) (s : State) (l : Nat) : Nat := src64 s f.a l
def payload (f : RF) (x : SpawnX) (s : State) (l : Nat) : List W32 :=
  (List.range (4 * (x.psz.toNat + 1))).map fun i => match f.b with
    | .v n => rdV s (n.toNat + i) l
    | .s n => rdS s (n.toNat + i)
    | _ => 0
/-- The bin of a key. -/
def keyBin (s : State) (die grid e : Nat) : Option Bin := s.bins.find? fun b => b.die == die && b.parent == grid && b.entry == e
/-- The lowest free bin number of a die. -/
def freeBin (s : State) (die : Nat) : Option Nat := (List.range 256).find? fun n => (findBin s die n).isNone
/-- The live child grid of a key. -/
def childGrid (s : State) (g : Grid) (isL raster : Bool) (pc : Nat) : Option Grid :=
  s.grids.find? fun x => x.parent == some g.uid && x.lcore == isL && x.raster == raster && (if isL then x.entryL else x.entryD) == pc
/-- A new child grid of a key (R395). -/
def newChild (s : State) (g : Grid) (isL raster : Bool) (k : Kern) : Grid :=
  { uid := s.nextId, gid := freshGid s g.ctx, ctx := g.ctx, depth := g.depth + 1,
    parent := some g.uid, raster := raster, teams := 0, unplaced := [], ver := g.ver,
    entryD := k.d.getD 0, entryL := k.l.getD 0, lcore := isL,
    regs := k.regs, width := k.width, waves := 1, stash := k.stash, regsL := k.regsL, widthL := k.widthL, winva := 0,
    args := g.args, seed := g.seed, coop := false, prio := g.prio, start := s.nextId, released := 0, queue := none, done := 0,
    rel := 0 }
/-- Appends a record to the bin of a key, opening it and its child grid where needed. -/
def appendRec (die : Nat) (g : Grid) (isL raster : Bool) (e : Nat) (k : Kern) (ws : List W32) (s : State) : State :=
  let r : Rec := { words := ws, age := 0 }
  match keyBin s die g.uid e with
  | some b => { s with bins := s.bins.map fun x => if x.die == die && x.num == b.num then { x with recs := x.recs ++ [r] } else x }
  | none =>
    let pc := ((if isL then k.l else k.d).getD 0)
    let (s, child) := match childGrid s g isL raster pc with
      | some x => (s, x.uid)
      | none =>
        let x := newChild s g isL raster k
        (onCtx g.ctx (fun c => { c with nextGid := x.gid + 1 }) { s with grids := s.grids ++ [x], nextId := s.nextId + 1 }, x.uid)
    { s with bins := s.bins ++ [{ num := (freeBin s die).getD 0, die := die, parent := g.uid, entry := e, child := child,
                                  recs := [r], timed := false }] }
/-- Is there room on a die for `n` records under some keys (R395, R397)? -/
def binRoom (s : State) (die grid n : Nat) (es : List Nat) : Bool :=
  let mine := s.bins.filter fun b => b.die == die
  (mine.map fun b => b.recs.length).foldl (· + ·) n ≤ 16384 &&
    mine.length + (es.eraseDups.filter fun e => (keyBin s die grid e).isNone).length ≤ 256

/-- SPAWN (R397). -/
def spawnR (f : RF) (x : SpawnX) (s : State) : Eff :=
  let act := actOf s f
  let ls := Mask.lanes act
  match findGrid s s.wave.grid with
  | none => .next s
  | some g =>
    if ls.isEmpty then .next s
    else if g.depth ≥ 10 then .trap { cause := 0x0B, sub := 6, mask := act }
    else
      let es := ls.map fun l => (l, spawnEntry f s l)
      match es.filter fun e => (entryKern s s.wave (e.2 % 2 ^ 52)).isNone with
      | (l, a) :: t => .trap { cause := 0x0B, sub := 7, mask := Mask.ofLanes (l :: t.map (·.1)), addr := addrW a }
      | [] =>
        if !binRoom s s.wave.die g.uid ls.length (es.map fun e => e.2 % 2 ^ 52) then .hold []
        else .next (es.foldl (fun t e =>
          match entryKern s s.wave (e.2 % 2 ^ 52) with
          | some k => appendRec s.wave.die g s.wave.isL false (e.2 % 2 ^ 52) k (payload f x s e.1) t
          | none => t) s)

/-! ### The queue window (R375, R483) -/

/-- Are LOG2SIZE and the reserved field of CTRL as R373 wants them? -/
def ctrlOk (ctrl : Nat) : Bool := 4 ≤ bitsOf ctrl 3 0 && bitsOf ctrl 31 24 == 0
/-- The queue reads its descriptor and applies EN (R373, R483); while it cannot be reached, the request `again` comes back. -/
def readDesc (enabling : Bool) (q : Queue) (c : Nat) (again : Instr) (s : State) : State :=
  match engineRead s q.die c (extend52 q.qdesc.toNat) 32 rdWant with
  | (s, .wait, _) => { s with inputs := .event again :: s.inputs }
  | (s, .ok, b) =>
    let q := { q with ctrl := BitVec.ofNat 32 (bytesAt b 8 4), ring := BitVec.ofNat 64 (bytesAt b 0 8),
                      ridx := if enabling then bytesAt b 16 8 else q.ridx }
    if !bitAt q.ctrl.toNat 6 then putQueue { q with state := .disabled, latched := [], holds := none } s
    else if q.state == .error then putQueue q s
    else if !ctrlOk q.ctrl.toNat then queueError q 2 s
    else if q.state != .disabled then putQueue q s
    else putQueue { q with code := 0, state := .idle, latched := [] } s
  | (s, .lost, _) => queueError { q with state := .error } 5 s

/-! ### The arms -/

def execSpawn (f : RF) (x : SpawnX) (s : State) : Out := issue (.spawn f x) s (spawnR f x)

/-- QUEUE_FETCH (R376, R379): a queue whose HOLD has ended goes on (R381), an idle one whose doorbell has come above RIDX goes to
FETCH (R380); of the queues of a die that have a position to fetch, the highest priority goes first (R387). -/
def execQueueFetch (die q : Nat) (s : State) : Out :=
  match runningQueue s die q with
  | some (x, c) =>
    let ahead := s.queues.any fun y => y.die == die && queuePri x < queuePri y && fetchesFirst s y
    .next (if (x.state == .hold && x.holds.isNone) || (x.state == .idle && x.ridx < x.doorbell) then putQueue x.rest s
      else if wantsFetch x && !ahead then fetchSlot x c s else s)
  | none => .next s
/-- SEQWAIT_REREAD (R376). -/
def execSeqwaitReread (die q : Nat) (s : State) : Out :=
  match runningQueue s die q with
  | some (x, c) => .next (if x.state == .seqwait then fetchSlot x c s else s)
  | none => .next s
/-- WAIT_LIST_READ (R383). -/
def execWaitListRead (die q : Nat) (s : State) : Out :=
  match runningQueue s die q with
  | some (x, c) =>
    if x.state != .depwait then .next s
    else match readWaits_ x c (waitList x) s with
      | (s, _, some 1) => .next (abortPacket x c 1 s)
      | (s, _, some _) => .next (queueError x 5 s)
      | (s, l, none) => .next (onQueue x.slot (fun y => { y with latched := l }) s)
  | none => .next s
/-- PACKET_START (R381): a packet whose wait list has latched goes to START and starts. -/
def execPacketStart (die q : Nat) (s : State) : Out :=
  match runningQueue s die q with
  | some (x, c) =>
    if x.state == .depwait && (waitList x).all (fun w => x.latched.contains w.1) then
      let y := { x with state := .start }
      .next (startPacket y c (putQueue y s))
    else .next s
  | none => .next s
/-- NOP_PACKET (R381). -/
def execNopPacket (die q : Nat) (s : State) : Out := .next (startTyped 0 die q s)
/-- DISPATCH (R388). -/
def execDispatch (die q : Nat) (s : State) : Out := .next (startTyped 1 die q s)
/-- BARRIER (R383). -/
def execBarrier (die q : Nat) (s : State) : Out := .next (startTyped 2 die q s)
/-- COPY (R391): it starts, and its copy's fault aborts it. -/
def execCopy (die q : Nat) (s : State) : Out :=
  match s.tags.find? fun t => t.queue == some (64 * die + q) && t.state == .fault with
  | some t => .next (abortCopy t s)
  | none => .next (startTyped 3 die q s)
/-- SIGNAL (R392). -/
def execSignal (die q : Nat) (s : State) : Out := .next (startTyped 4 die q s)

/-- BIN_TIMER_EXPIRY (R398). -/
def execBinTimerExpiry (die bin : Nat) (s : State) : Out :=
  match findBin s die bin with
  | some b =>
    let t := match findGrid s b.child with | some g => (if ctxRuns s g.ctx then binTimer s g.ctx else 0) | none => 0
    .next (if t != 0 && t ≤ b.oldest then
      { s with bins := s.bins.map fun x => if x.die == die && x.num == bin then { x with timed := true } else x } else s)
  | none => .next s
/-- TEAM_RETIRE (R322): a FAULT tag held when the team's last lane has exited raises the halt line, for the Courier of its core
(entry 33 stands for a Courier, numbered 32 die + core). -/
def execTeamRetire (team : Nat) (s : State) : Out :=
  match findTeam s team with
  | none => .next s
  | some t =>
    if !ctxRuns s t.ctx || (allWaves s).any (fun w => w.team == t.id && w.liveLanes != 0#64) then .next s
    else match (teamTags s t).find? fun x => x.state == .fault with
      | some x =>
        let h := x.fault.getD { cause := 0, sub := 0, mask := 0, addr := 0, pc := 0, taken := false }
        let w : Wave := { Wave.noWave with ctx := t.ctx, die := t.die, core := t.core, grid := t.grid,
                                           ver := ((findGrid s t.grid).map (·.ver)).getD 0 }
        .next (raiseHalt t.ctx .fatal (some (32 * t.die + t.core, 33,
          { cause := h.cause, sub := h.sub, mask := 0, addr := h.addr, pc := h.pc, pc2 := trapPc2 s w h.pc, word0 := 0, word1 := 0,
            hdr := false })) s)
      | none =>
        .next (if teamBusy s t || (teamTags s t).any (fun x => x.state == .busy) then s else retireTeam t s)
/-- GRID_RETIRE (R390). -/
def execGridRetire (grid : Nat) (s : State) : Out :=
  match findGrid s grid with
  | some g => .next (if gridDone s g && ctxRuns s g.ctx then retireGrid g s else s)
  | none => .next s

/-- Has the device come to READY (R501): are writes to CTXTAB, queue slots and PEER taken? -/
def afterReady (s : State) : Bool := s.plat.dev == .ready || s.plat.dev == .alarm
/-- DOORBELL (R375, R483). -/
def execDoorbell (slot : Nat) (val : W64) (size : Nat) (s : State) : Out :=
  .next (if afterReady s then ringDoorbell slot 0 (bytesOf size val.toNat) s else s)
/-- A slot not yet touched. -/
def newQueue (slot : Nat) : Queue :=
  { slot := slot, qdesc := 0, ctx := none, ring := 0, ctrl := 0, state := .disabled, ridx := 0, doorbell := 0, pkt := [],
    latched := [], abort := 0, code := 0, holds := none }
/-- A slot comes into being when it is first written. -/
def touchQueue (slot : Nat) (s : State) : State :=
  if (findQueue s slot).isSome then s else { s with queues := s.queues ++ [newQueue slot] }
/-- QCTX_ATTACH (R483). -/
def execQctxAttach (slot ctx : Nat) (s : State) : Out :=
  if slot ≥ 4096 || !afterReady s || (findCtx s ctx).isNone then .next s
  else
    let s := touchQueue slot s
    match findQueue s slot with
    | some q =>
      let q := { newQueue slot with qdesc := q.qdesc, ctx := some ctx }
      .next (readDesc true q ctx (.qctxAttach slot ctx) (onQueue slot (fun _ => q) s))
    | none => .next s
/-- QCTX_DETACH (R483). -/
def execQctxDetach (slot : Nat) (s : State) : Out :=
  .next (onQueue slot (fun q => if q.state == .disabled then { q with ctx := none } else q) s)
/-- KICK (R483). -/
def execKick (slot : Nat) (s : State) : Out :=
  match findQueue s slot with
  | some q => match q.ctx with
    | some c => .next (readDesc false q c (.kick slot) s)
    | none => .next s
  | none => .next s

end Sys2Proof.Machine
end

