-- ==== Sys2Proof/Machine/Fetch.lean ====
section
/-! DEFINITION. Block headers, CHK and the fetch of blocks (R24 to R28, R55, R56, R412, R435). -/
namespace Sys2Proof.Machine
open Sys2Proof

/-! ### Headers and CHK (R25, R26) -/

/-- One bit of the CRC-16/CCITT. -/
def crcBit (c : BitVec 16) : BitVec 16 := (c <<< 1) ^^^ (if c.getLsbD 15 then 0x1021#16 else 0#16)
/-- One byte of it. -/
def crcByte (c : BitVec 16) (b : Byte) : BitVec 16 :=
  (List.range 8).foldl (fun c _ => crcBit c) (c ^^^ (b ++ 0#8))
/-- CHK of a block's instruction bytes. -/
def crc16 (bs : List Byte) : BitVec 16 := bs.foldl crcByte 0xFFFF#16

/-- The header's marker, LEN and reserved field are right (R25). -/
def headerOk (w : W64) : Bool := w.extractLsb' 60 4 == 0xB#4 && w.extractLsb' 52 8 != 0#8 && w.extractLsb' 16 6 == 0#6
/-- LEN. -/
def headerLen (w : W64) : Nat := (w.extractLsb' 52 8).toNat
/-- The block a header opens. -/
def headerBlk (hdr : PC) (w : W64) (words : List W64) : Blk :=
  let off := w.extractLsb' 27 16
  { hdr := hdr, len := headerLen w, live := (w.extractLsb' 43 9).toNat,
    rejoin := if off == 0#16 then none else some (hdr + off.signExtend 49), eqv := w.getLsbD 23, yh := w.getLsbD 22,
    words := words }
/-- The header word that two units carry; units without a header's tags carry none that passes (R55, R56). Of such units the
model reports 0 as the header word: the manual gives no TRAPWORD0 for them (assumption 13). -/
def unitHeader (u v : W32) : W64 := if unitTag u == 0 && unitTag v == 0 then unpackHeader (joinUnits u v) else 0

/-! ### Reading a block -/

/-- What fetching a block finds. -/
inductive Fetched where
  | ok (b : Blk)
  | miss (va : Nat)
  | waits
  | fault (cause sub addr : Nat)
  | bad (w : W64)
deriving DecidableEq, Repr, Inhabited

/-- Bytes of a word or unit. -/
def unitBytes (isL : Bool) : Nat := if isL then 4 else 8
/-- The words or units from an address on, as pieces to translate. -/
def codePieces (isL : Bool) (pc : PC) (n : Nat) : List (Nat × Nat) :=
  (List.range n).map fun i => (pcBytes isL (pc + BitVec.ofNat 49 i), unitBytes isL)

/-- What the wave in focus wants of the translation of its code. -/
def fetchWant (s : State) (sup : Bool) : Want := { ex := true, sup := sup, unit := some (s.wave.core, s.wave.sub) }
/-- Reads pieces of code, after their recalls (R107) and once no copy owns them (R127); a peer that cannot be reached is R490's.
-/
def readCode (s : State) (sup : Bool) (ps : List (Nat × Nat)) (go : State → List Nat → State × Fetched) : State × Fetched :=
  match placesOf s s.wave.die s.wave.ctx (fetchWant s sup) ps with
  | .miss va => (s, .miss va)
  | .fault c b a => (s, .fault c b a)
  | .ok ks =>
    if ks.any fun k => copyOwns s k.1 k.2 then (s, .waits)
    else
      let lost (k : Nat) (s : State) : State :=
        routeLost s.wave.die s.wave.ctx s.wave.uid (s.wave.mode.getLsbD 7) (maskOf s) ((ps.head?.map (·.1)).getD 0) (pcOf s) k s
      let s := ks.foldl (fun s k => recallBytes k.1 k.2 (lost k.1 s)) s
      go s (ks.map fun k => cohNat s k.1 k.2)
/-- Fetches and checks the block at a header address, for the wave in focus (R27, R412). -/
def fetchBlock (s : State) (isL sup : Bool) (hdr : PC) : State × Fetched :=
  readCode s sup (codePieces isL hdr (hdrLen isL)) fun s hs =>
    let w := if isL then unitHeader (BitVec.ofNat 32 (hs.getD 0 0)) (BitVec.ofNat 32 (hs.getD 1 0)) else BitVec.ofNat 64 (hs.getD 0 0)
    if !headerOk w then (s, .bad w)
    else readCode s sup (codePieces isL (hdr + BitVec.ofNat 49 (hdrLen isL)) (headerLen w)) fun s ws =>
      (s, if crc16 (ws.flatMap (bytesOf (unitBytes isL))) != w.extractLsb' 0 16 then .bad w
          else .ok (headerBlk hdr w (ws.map (BitVec.ofNat 64))))

/-- A copy of the block that the wave's sequencer or Porter holds (R435). -/
def heldCopy (s : State) (hdr : PC) : Option Blk :=
  (s.copies.find? fun c => c.ctx == s.wave.ctx && c.die == s.wave.die && c.core == s.wave.core && c.sub == s.wave.sub &&
    c.blk.hdr == hdr).map (·.blk)
/-- The fetched block is held as a copy. -/
def holdCopy (b : Blk) (s : State) : State :=
  let w := s.wave
  { s with copies := { ctx := w.ctx, die := w.die, core := w.core, sub := w.sub, blk := b } ::
      s.copies.filter fun c => !(c.ctx == w.ctx && c.die == w.die && c.core == w.core && c.sub == w.sub && c.blk.hdr == b.hdr) }

/-- The block the fetch takes: what memory holds, or a copy still held, whichever the machine uses (R435). -/
def takeBlock (hdr : PC) (b : Blk) (s : State) : Blk :=
  match heldCopy s hdr with
  | some c => if choose s 15 2 == 1 then c else b
  | none => b

/-- The registers dead at a block's entry become undefined in the split's lanes (Table 2.1). -/
def killDead (b : Blk) (w : Wave) : Wave :=
  if b.live == 0 then w
  else
    let dead := (List.range w.regs).filter fun i => b.live ≤ i
    { w with undef := dead.foldl (fun u i => Store.set 0 u i (Store.get 0 u i ||| w.cur.mask)) w.undef }

/-- The split in focus enters a block: it stands at the first instruction. -/
def enterBlock (b : Blk) (s : State) : State :=
  let isL := s.wave.isL
  holdCopy b (onCur (fun c => { c with blk := some b, pc := b.first isL }) (onFocus (killDead b) s))
/-- The access thread enters a block. -/
def enterThreadBlock (b : Blk) (s : State) : State :=
  holdCopy b (onThread (fun t => { t with blk := some b, pc := b.first false }) s)

/-- An undefined 64-bit value. -/
def freeW64 (s : State) (tag : Nat) : W64 := Config.undefWord s.freeCtr tag 1 ++ Config.undefWord s.freeCtr tag 0

/-- BLOCK_FETCH (R27, R296, R412): for a split by its entry, for the access thread as entry 32. A header fault is ILLOP
RESERVED with the header word in TRAPWORD0; the manual gives no TRAPWORD0 for a fetch fault. -/
def execBlockFetch (uid e : Nat) (s : State) : Out :=
  if !hasWave uid s then .next s
  else if e == 32 then
    let s := { focusWave uid s with acc := true }
    match s.wave.thread with
    | none => .next s
    | some t =>
      if t.blk.isSome || t.done || t.fault.isSome || t.atSync || !ctxRuns s s.wave.ctx || s.wave.liveLanes == 0#64 then .next s
      else match fetchBlock s false false t.pc with
        | (s, .ok b) => .next (enterThreadBlock (takeBlock t.pc b s) s)
        | (s, .waits) => .next s
        | (s, .miss va) => .next { s with agenda := walkFor s.wave.die s.wave.ctx va (fetchWant s false) :: s.agenda }
        | (s, .fault c b a) => .next (raiseThread { cause := c, sub := b, mask := 0, addr := addrW a, pc := some t.pc, hdr := true } 0 0 s)
        | (s, .bad w) => .next (raiseThread { cause := 1, sub := 2, mask := 0, pc := some t.pc, hdr := true } w 0 s)
  else
    let s := { focusSplit uid e s with acc := false }
    let c := s.wave.cur
    if c.idx != e || c.blk.isSome || !splitRuns s then .next s
    else match fetchBlock s s.wave.isL c.h c.pc with
      | (s, .ok b) => .next (enterBlock (takeBlock c.pc b s) s)
      | (s, .waits) => .next s
      | (s, .miss va) => .next { s with agenda := walkFor s.wave.die s.wave.ctx va (fetchWant s c.h) :: s.agenda }
      | (s, .fault k b a) =>
        .next (raiseSplit { cause := k, sub := b, mask := c.mask, addr := addrW a, hdr := true } (freeW64 s 16) (freeW64 s 17) s)
      | (s, .bad w) => .next (raiseSplit { cause := 1, sub := 2, mask := c.mask, hdr := true } w 0 s)

end Sys2Proof.Machine
end

