-- ==== Sys2Proof/Machine/Trans.lean ====
section
/-! DEFINITION. The translation unit's instructions and events: walks (R405, R411), TLBINV, CWB and CINV (R434, R435), PUBLISH
and code versions (R66 to R68, R436 to R438), memory errors (R262). -/
namespace Sys2Proof.Machine
open Sys2Proof

/-! ### TLBINV, CWB, CINV (R434, R435) -/

/-- The TLB entries a TLBINV drops (Table 14.16). -/
def invalidates (kind c base len : Nat) (e : TlbEntry) : Bool :=
  match kind with
  | 0 => tlbOverlaps c base 1 e
  | 1 => tlbOverlaps c base len e
  | _ => e.ctx == c
/-- May a dropped entry have translated `n` bytes at an address? -/
def wasCovered (s : State) (kind c base len va n : Nat) : Bool :=
  1 < kind || rangesMeet (va % 2 ^ 52) n (base % 2 ^ 52) (if kind == 0 then 1 else len) ||
  s.dies.any fun d => d.tlb.any fun e => invalidates kind c base len e && tlbOverlaps c va n e
/-- The accesses of the context that a dropped entry translated and that are still to be performed, by number: memory
accesses and texture requests, copies with their destination and signal, signals still owed of copies that have ended, raster
batches with their statistics. A copy that has stopped at a fault, or is to be translated again, uses no old entry. -/
def oldAccesses (s : State) (kind c base len : Nat) : List Nat :=
  let covered (va n : Nat) : Bool := wasCovered s kind c base len va n
  ((s.pend.filter fun p => p.ctx == c && (isAccess p.kind || p.kind == .texture) && p.lanes.any fun a =>
      covered a.va (if p.kind == .texture then 16 else accSize p.kind)).map (·.id)) ++
  (((s.tags.filterMap fun t => if t.state == .busy then t.copy else none)).filter fun x => x.ctx == c && !x.stale &&
    ((destPieces x).any (fun d => covered d.1 d.2) ||
      x.sig.any fun g => covered g.1 8)).map (·.order) ++
  ((s.owed.filter fun o => o.id != 0 && o.ctx == c && o.key.isSome && covered o.va 8).map (·.id)) ++
  ((s.dies.flatMap (·.raster)).filter fun b => b.ctx == c && b.statKey.isSome && covered (bytesAt b.bytes 0x28 8) 64).map (·.id)
/-- The TABLES and STRIPE fields of the descriptor are read again. -/
def reloadTables (c : Nat) (s : State) : State :=
  let s := match findCtx s c with | some x => recallBytes (x.descKey + 0x10) 0x88 s | none => s
  onCtx c (fun x => { x with desc := x.desc.take 0x10 ++ cohRead s (x.descKey + 0x10) 0x88 ++ x.desc.drop 0x98 }) s

/-- TLBINV: the drops; the split is not ready until the accesses translated before them are performed (invalDone). -/
def tlbinvR (f : RF) (s : State) : Eff :=
  let base := match f.a with | .s n => (rdS64 s n.toNat).toNat | _ => 0
  let len := match f.b with | .s n => (rdS s n.toNat).toNat | _ => 0
  let kind := f.ty.toNat
  let c := s.wave.ctx
  let old := oldAccesses s kind c base len
  let s := dropEntries (invalidates kind c base len) s
  .next (onCur (fun x => { x with inval := old }) (if kind == 3 then reloadTables c s else s))

/-- The first page of a range whose entry is being rewritten: the walk waits for it (R405). -/
def busyPage (s : State) (die c a len : Nat) : Option Nat :=
  ((List.range ((a % 4096 + len + 4095) / 4096)).map fun (i : Nat) => if i == 0 then a else a / 4096 * 4096 + 4096 * i).find? fun va =>
    canonical va && pteOf s die c va == .busy
/-- The addresses, places and lengths of a range's lines, page by page: pages that are unmapped or of kind HOST, MMIO or STASH are
skipped (R435). -/
def linePages (s : State) (die c a len : Nat) : List (Nat × Nat × Nat) :=
  (List.range ((a % 4096 + len + 4095) / 4096)).filterMap fun (i : Nat) =>
    let va := if i == 0 then a else a / 4096 * 4096 + 4096 * i
    let hi := min (a + len) ((va / 4096 + 1) * 4096)
    match xlate 4 s die c va { walker := true } with
    | .ok k => if tgtOfKey k == 0 || tgtOfKey k == 4 then some (va, k, hi - va) else none
    | _ => none
/-- The places alone. -/
def linePlaces (s : State) (die c a len : Nat) : List (Nat × Nat) := (linePages s die c a len).map (·.2)
/-- CWB: every dirty copy of the range's lines goes home. -/
def cwbR (f : MF) (s : State) : Eff :=
  rangeCheck f s fun a len =>
    match busyPage s s.wave.die s.wave.ctx a len with
    | some va => .hold [walkFor s.wave.die s.wave.ctx va walkRd]
    | none =>
    let ps := linePlaces s s.wave.die s.wave.ctx a len
    let ds := s.teams.flatMap fun t => (t.dirty.filter fun d => ps.any fun p => rangesMeet p.1 p.2 d.key 64).map fun d => (t.id, d)
    .next (ds.foldl (fun s d => writeBackLine d.1 d.2 s) s)

/-- Does a fetch copy lie in the lines of some pages, by its addresses or, under another mapping, by its places? -/
def copyMeets (s : State) (die : Nat) (ps : List (Nat × Nat × Nat)) (x : FetchCopy) : Bool :=
  let isL := decide (16 ≤ x.core)
  let a := pcBytes isL x.blk.hdr
  let n := (hdrLen isL + x.blk.len) * unitBytes isL
  (ps.any fun p => rangesMeet (p.1 % 2 ^ 52) p.2.2 (a % 2 ^ 52) n) ||
    (linePlaces s die x.ctx a n).any fun k => ps.any fun p => rangesMeet p.2.1 p.2.2 k.1 k.2
/-- Drops a context's fetch copies of a range's lines, on every die (R435). -/
def dropCopies (die c a len : Nat) (s : State) : State :=
  let ps := linePages s die c a len
  { s with copies := s.copies.filter fun x => !(x.ctx == c && copyMeets s die ps x) }
/-- CINV: the copies are dropped once the wave's earlier writes are performed. -/
def cinvR (f : MF) (s : State) : Eff :=
  rangeCheck f s fun a len =>
    if ownWrites true s then .hold []
    else match busyPage s s.wave.die s.wave.ctx a len with
      | some va => .hold [walkFor s.wave.die s.wave.ctx va walkRd]
      | none => .next (dropCopies s.wave.die s.wave.ctx a len s)

/-! ### Adeac objects (R66 to R68) -/

/-- A section of an object: TYPE, OFFSET, SIZE. -/
structure Section where
  ty : Nat
  off : Nat
  size : Nat
deriving DecidableEq, Repr, Inhabited

/-- The sections of an object. -/
def sectionsOf (b : List Byte) : List Section :=
  (List.range (bytesAt b 0x0C 2)).map fun (i : Nat) =>
    let a := bytesAt b 0x10 8 + 32 * i
    { ty := bytesAt b a 4, off := bytesAt b (a + 8) 8, size := bytesAt b (a + 16) 8 }
/-- Is a value one of the wave widths up to a limit? -/
def widthOk (w hi : Nat) : Bool := [4, 8, 16, 32, 64].contains w && w ≤ hi
/-- A kernel entry is inside its sections and within Table 2.15's limits (R67). -/
def kernelOk (b : List Byte) (secs : List Section) (j : Nat) : Bool :=
  let k := bytesAt b 0x18 8 + 64 * j
  let ones : Nat := 2 ^ 64 - 1
  let size (ty : Nat) : Nat := ((secs.find? fun s => s.ty == ty).map (·.size)).getD 0
  let d := bytesAt b (k + 8) 8
  let l := bytesAt b (k + 16) 8
  let regsOk (r hi : Nat) : Bool := r % 32 == 0 && 32 ≤ r && r ≤ hi
  let team := bytesAt b (k + 27) 1
  1 ≤ team && team ≤ 16 &&
  (d == ones || (8 * d < size 1 && regsOk (bytesAt b (k + 24) 2) 512 && widthOk (bytesAt b (k + 26) 1) 64)) &&
  (l == ones || (4 * l < size 2 && regsOk (bytesAt b (k + 28) 2) 128 && widthOk (bytesAt b (k + 30) 1) 16))
/-! ### Equivalence entries and maps (R443, R444) -/

/-- A state-map entry (Table 15.5). -/
structure MapEntry where
  kind : Nat
  n : Nat
  d : Nat
  slot : Bool
  l : Nat
deriving DecidableEq, Repr, Inhabited

/-- The fields of an entry's word. -/
def mapEntryOf (w : Nat) : MapEntry :=
  { kind := bitsOf w 63 62, n := bitsOf w 55 48 + 1, d := bitsOf w 47 38, slot := bitAt w 31, l := bitsOf w 30 22 }
/-- Are an entry's reserved fields zero? -/
def mapEntryClean (w : Nat) : Bool := bitsOf w 61 56 == 0 && bitsOf w 37 32 == 0 && bitsOf w 21 0 == 0
/-- Does an entry stay within the registers and slots of both sides (R444, R447)? -/
def MapEntry.ok (regs regsL slots : Nat) (e : MapEntry) : Bool :=
  match e.kind with
  | 0 => e.d + e.n ≤ regs && e.l + e.n ≤ (if e.slot then slots else regsL)
  | 1 => !e.slot && e.d + e.n ≤ 128 && e.l + e.n ≤ 128
  | 2 => !e.slot && e.d + e.n ≤ 16 && e.l + e.n ≤ 16 && e.d != 0 && e.l != 0
  | _ => !e.slot && e.d + e.n ≤ 16 && e.l + e.n ≤ 16
/-- Do two entries overlap on either side? -/
def MapEntry.meets (a b : MapEntry) : Bool :=
  a.kind == b.kind && (rangesMeet a.d a.n b.d b.n || (a.slot == b.slot && rangesMeet a.l a.n b.l b.n))
/-- Does no entry of a map overlap a later one? -/
def noMeet : List MapEntry → Bool
  | [] => true
  | e :: t => (t.all fun x => !e.meets x) && noMeet t
/-- The checks of R444 on one EQUIV entry at `a`: `id` is the last entry's ID. -/
def equivOk (b : List Byte) (secs : List Section) (prev : Option Nat) (a : Nat) : Bool :=
  let size (ty : Nat) : Nat := ((secs.find? fun s => s.ty == ty).map (·.size)).getD 0
  let off (ty : Nat) : Nat := ((secs.find? fun s => s.ty == ty).map (·.off)).getD 0
  let k := bytesAt b 0x18 8 + 64 * bytesAt b (a + 2) 2
  let ones : Nat := 2 ^ 64 - 1
  let m := bytesAt b (a + 16) 4
  let h := off 4 + m
  let ws := (List.range (bytesAt b h 2)).map fun (i : Nat) => bytesAt b (h + 16 + 8 * i) 8
  let es := ws.map mapEntryOf
  let slots := bytesAt b (h + 2) 2
  (match prev with | some p => p < bytesAt b a 2 | none => true) &&
  bytesAt b (a + 2) 2 < bytesAt b 0x20 4 && bytesAt b (k + 8) 8 != ones && bytesAt b (k + 16) 8 != ones &&
  8 * bytesAt b (a + 8) 4 < size 1 && 4 * bytesAt b (a + 12) 4 < size 2 && m + 16 + 8 * bytesAt b h 2 ≤ size 4 &&
  bytesAt b (a + 4) 4 < 4 && bytesAt b (a + 20) 4 == 0 && bytesAt b (h + 12) 4 == 0 && slots < 512 && ws.all mapEntryClean &&
  es.all (MapEntry.ok (bytesAt b (k + 24) 2) (bytesAt b (k + 28) 2) slots) && noMeet es &&
  bytesAt b (h + 4) 4 + bytesAt b (h + 8) 4 * bytesAt b (k + 27) 1 ≤ bytesAt b (k + 32) 4
/-- The checks of R444 on an object's first EQUIV section. -/
def equivsOk (b : List Byte) (secs : List Section) : Bool :=
  match secs.find? fun s => s.ty == 3 with
  | none => true
  | some e =>
    let at_ (j : Nat) : Nat := e.off + 16 + 24 * j
    bytesAt b (e.off + 4) 8 == 0 && bytesAt b (e.off + 12) 4 == 0 &&
    (List.range (bytesAt b e.off 4)).all fun (j : Nat) =>
      equivOk b secs (if j == 0 then none else some (bytesAt b (at_ (j - 1)) 2)) (at_ j)

/-- The loader's checks of R67 and R444. R67 does not name a section table or kernel table outside SIZE, which the model rejects
like a section outside it; and it takes an object with D and L code to be one with both kinds of section, whatever FLAGS says
(assumption 40). -/
def objectOk (b : List Byte) : Bool :=
  let secs := sectionsOf b
  let size := bytesAt b 0x30 8
  let has (ty : Nat) : Bool := secs.any fun s => s.ty == ty
  64 ≤ b.length && bytesAt b 0 4 == 0x41454441 && bytesAt b 4 2 == 1 && size ≤ b.length &&
  bytesAt b 0x10 8 + 32 * bytesAt b 0x0C 2 ≤ size && bytesAt b 0x18 8 + 64 * bytesAt b 0x20 4 ≤ size &&
  (secs.all fun s => s.off + s.size ≤ size && (s.ty != 1 || s.off % 8 == 0) && (s.ty != 2 || s.off % 4 == 0)) &&
  ((List.range (bytesAt b 0x20 4)).all (kernelOk b secs)) && !(has 1 && has 2 && !has 3) &&
  equivsOk b secs

/-- The MODE.COMPAT bit of an erratum (Table 2.17). -/
def erratumBit (id : Nat) : Option Nat :=
  match id with | 3 => some 0 | 9 => some 1 | 14 => some 2 | _ => none
/-- The COMPAT bits of an object: none where an erratum is refused (R68). R67 and R68 do not say what an erratum list that runs
past SIZE lists: the model reads the bytes that stand there, which at PUBLISH are the staging buffer's, and 0, no erratum's ID,
where none were read; an ID so found is accepted or refused as any other (assumption 40). -/
def compatOf (b : List Byte) : Option Nat :=
  let ids := (List.range (bytesAt b 0x24 4)).map fun (i : Nat) => erratumBit (bytesAt b (bytesAt b 0x28 8 + 4 * i) 2)
  if ids.any (·.isNone) then none
  else some ((List.range 8).foldl (fun x n => if ids.contains (some n) then x + 2 ^ n else x) 0)

/-- The chain of a code section's headers (R436): the code of Table 14.17 and the index of the header that fails. -/
def chainAt (isL : Bool) (b : List Byte) (off size : Nat) : Nat → Nat → Option (Nat × Nat)
  | 0, pos => some (3, pos)
  | f + 1, pos =>
    let u := unitBytes isL
    let at_ := off + u * pos
    let w : W64 := if isL then unitHeader (BitVec.ofNat 32 (bytesAt b at_ 4)) (BitVec.ofNat 32 (bytesAt b (at_ + 4) 4))
      else BitVec.ofNat 64 (bytesAt b at_ 8)
    let body := (b.drop (at_ + u * hdrLen isL)).take (u * headerLen w)
    if !headerOk w || crc16 body != w.extractLsb' 0 16 then some (2, pos)
    else
      let next := pos + hdrLen isL + headerLen w
      if u * next == size then none else if size < u * next then some (3, pos) else chainAt isL b off size f next
/-- The first failure of the code sections' chains. -/
def chainError (b : List Byte) : Option (Nat × Nat) :=
  (sectionsOf b).findSome? fun s =>
    if s.ty == 1 || s.ty == 2 then chainAt (s.ty == 2) b s.off s.size (s.size + 1) 0 else none

/-- PUBLISH's verdict on an object in hardware (Table 14.17): CODE and INDEX, or none. -/
def publishError (b : List Byte) : Option (Nat × Nat) :=
  let tag := bytesAt b 8 4
  if !objectOk b || !(tag == 0 || tag == Config.stepTag) then some (1, 0)
  else if (compatOf b).isNone then some (4, 0)
  else chainError b

/-- Pieces of a range that cross no page. -/
def pagePieces (a len : Nat) : List (Nat × Nat) :=
  (List.range ((a % 4096 + len + 4095) / 4096)).map fun (i : Nat) =>
    let va := if i == 0 then a else a / 4096 * 4096 + 4096 * i
    (va, min (a + len) ((va / 4096 + 1) * 4096) - va)
/-- The places of pieces, as an engine reaches them: all, or how it ended. -/
def reachAll (die c : Nat) (want : Want) : List (Nat × Nat) → State → State × Served × List (Nat × Nat)
  | [], s => (s, .ok, [])
  | (a, n) :: t, s =>
    match reach s die c a n want with
    | (s, .ok k) => (let r := reachAll die c want t s; (r.1, r.2.1, (k, n) :: r.2.2))
    | (s, .miss) => (s, .wait, [])
    | (s, .fault _ _ _) => (s, .lost, [])
/-- Places of a context's memory in a peer that cannot be reached are met on behalf of a wave (R490). -/
def placesLost (die c uid : Nat) (strict : Bool) (a : Nat) (ks : List (Nat × Nat)) (s : State) : State :=
  ks.foldl (fun s k => routeLost die c uid strict 0 a 0 k.1 s) s
/-- The bytes of a range of a context, as the walker reads them, on behalf of a wave. -/
def readRange (s : State) (die c a len : Nat) (uid : Nat := 0) (strict : Bool := false) : State × Served × List Byte :=
  match reachAll die c walkRd (pagePieces a len) s with
  | (s, .ok, ks) =>
    let s := ks.foldl (fun s k => recallBytes k.1 k.2 s) (placesLost die c uid strict a ks s)
    (s, .ok, ks.flatMap fun k => cohRead s k.1 k.2)
  | (s, r, _) => (s, r, [])
/-- Writes a range of a context, all or nothing. -/
def writeRange (s : State) (die c a : Nat) (b : List Byte) (uid : Nat := 0) (strict : Bool := false) : State × Served :=
  match reachAll die c { walkRd with wr := true } (pagePieces a b.length) s with
  | (s, .ok, ks) =>
    let s := placesLost die c uid strict a ks s
    ((ks.foldl (fun (r : State × List Byte) k => (writeHome r.1 k.1 (r.2.take k.2), r.2.drop k.2)) (s, b)).1, .ok)
  | (s, r, _) => (s, r)

/-- A new code version of a context (R437): the object `b`, at an address. -/
def addVersion (c va : Nat) (b : List Byte) (compat : Nat) (patches : Option Nat) (s : State) : State :=
  onCtx c (fun x =>
    let v : Version :=
      { id := x.nextVer, va := BitVec.ofNat 64 va, size := bytesAt b 0x30 8, compat := compat, next := none, retired := false,
        freed := false, native := bytesAt b 8 4 == Config.stepTag, obj := b.take (bytesAt b 0x30 8) }
    let old := x.vers.map fun y => if some y.id == patches then { y with next := some x.nextVer } else y
    { x with vers := old ++ [v], nextVer := x.nextVer + 1 }) s

/-! ### PUBLISH (R436) -/

/-- PUBLISH: its checks, the staging range's translation, then its issue. -/
def publishR (f : RF) (x : PublishX) (s : State) : Eff :=
  match f.a, f.b with
  | .s a, .s b =>
    let base := (rdS64 s a.toNat).toNat
    let len := (rdS s b.toNat).toNat
    if base % 64 != 0 || len % 64 != 0 || 2 ^ 24 < len then memTrap s true 7 0 0 base
    else match placesOf s s.wave.die s.wave.ctx (wantOf s true false []) (pagePieces base len) with
      | .miss va => .walk (walkFor s.wave.die s.wave.ctx va (wantOf s true false []))
          (hitsOf s s.wave.die s.wave.ctx (wantOf s true false []) ((pagePieces base len).map (·.1)) ++ s.wave.cur.held)
      | .fault k sub y => memTrap s true k sub 0 y
      | .ok _ =>
        let p := newPending s (.publish base len) 0 true f.d.toNat 2 []
        .next (addPending { p with args := [x.stat.toNat] } (markDst true x.stat.toNat 1 0 s))
  | _, _ => .next s

/-- Writes PUBLISH's results: D's pair and STAT (Table 14.17). -/
def publishDone (p : Pending) (va code index : Nat) (s : State) : State :=
  let stat := p.args.headD 0
  let put (w : Wave) : Wave :=
    (Wave.putReply { p with dst := stat } 0 [BitVec.ofNat 32 (code + 256 * index)]
      (Wave.putReply p 0 [BitVec.ofNat 32 va, BitVec.ofNat 32 (va / 2 ^ 32)] w))
  let full (w : Wave) : Wave := Wave.fullReply { p with dst := stat, ndst := 1 } 0 (Wave.fullReply p 0 w)
  onAnyWave p.uid (fun w => full (put w))
    (onPlat (fun x => { x with posts := x.posts.filter fun q => q.1 != p.id }) { s with pend := s.pend.filter fun q => q.id != p.id })
/-- An object that has passed: its space, the sealed copy, the new version; it waits where the space cannot be reached yet. -/
def sealObject (p : Pending) (b : List Byte) (s : State) : State :=
  let size := bytesAt b 0x30 8
  let pool := descN s p.ctx 0x0B0 8
  let used := ((findCtx s p.ctx).map (·.vers)).getD [] |>.filterMap fun v => if v.freed then none else some (v.va.toNat, v.size)
  match lowestFree used pool (pool + descN s p.ctx 0x0B8 8) (max 1 size) 64 with
  | none => publishDone p 0 5 0 s
  | some va =>
    match writeRange s p.die p.ctx va (b.take size) p.uid (p.mode.getLsbD 7) with
    | (s, .wait) => s
    | (s, .lost) => publishDone p 0 5 0 s
    | (s, .ok) => publishDone p va 0 0 (addVersion p.ctx va b ((compatOf b).getD 0) none (dropCopies p.die p.ctx va size s))
/-- PUBLISH's end: the checks, or with ASSIST.PUBV the host's verdict in their place (R20, R436), then the sealed copy; it waits
where the staging bytes cannot be reached yet, and for the verdict, which the request's last argument notes. -/
def publishEnd (p : Pending) (base len : Nat) (s : State) : State :=
  match s.plat.posts.find? fun x => x.1 == p.id with
  | some x => if p.args.getD 1 0 == 1 then sealObject p x.2 s else s
  | none =>
    match readRange s p.die p.ctx base len p.uid (p.mode.getLsbD 7) with
    | (s, .wait, _) => s
    | (s, _, b) =>
      if assist s p.ctx 4 then onPlat (fun x => { x with posts := x.posts ++ [(p.id, b)] }) s
      else match publishError b with
        | some (code, index) => publishDone p 0 code index s
        | none => sealObject p b s
/-- The host's verdict on an object posted to it (R20, R436): REFUSED, or the checks have passed. -/
def publishVerdict (id : Nat) (accept : Bool) (s : State) : State :=
  match findPending s id with
  | some p =>
    if !(s.plat.posts.any fun x => x.1 == id) then s
    else if accept then
      { s with pend := s.pend.map fun q => if q.id == id then { q with args := [q.args.headD 0, 1] } else q }
    else publishDone p 0 6 0 s
  | none => s

/-! ### Errors in memory (R262, R422) -/

/-- The die that holds a place. -/
def dieOfKey (k : Nat) : Nat := if k < 2 ^ 56 then k / 2 ^ 44 else (k - 2 ^ 56) / 2 ^ 29
/-- The line is lost: no copy of it stays, and its home reads as zeros (R262). -/
def zeroLine (line : Nat) (s : State) : State :=
  memZero { s with teams := s.teams.map fun t => { t with dirty := t.dirty.filter fun d => d.key != line } } line 64

/-! ### The arms -/

def execTlbinv (f : RF) (s : State) : Out := issue (.tlbinv f) s (tlbinvR f)
def execCwb (f : MF) (s : State) : Out := issue (.cwb f) s (cwbR f)
def execCinv (f : MF) (s : State) : Out := issue (.cinv f) s (cinvR f)
def execPublish (f : RF) (x : PublishX) (s : State) : Out := issue (.publish f x) s (publishR f x)

/-- Does the walk of an address find an entry with BUSY = 1? -/
def walkBusy (s : State) (ctx va : Nat) : Bool :=
  let desc := ((findCtx s ctx).map (·.desc)).getD []
  !inWindow desc va && probeTables s desc va == .busy
/-- PAGE_WALK (R405, R411); one that finds BUSY is followed by its retry. -/
def execPageWalk (die ctx : Nat) (va : W64) (want : Want) (s : State) : Out :=
  .next (if !ctxRuns s ctx then s
    else if walkBusy s ctx va.toNat then { s with agenda := s.agenda ++ [.event (.pteBusyRetry die ctx va want)] }
    else walkFill 4 s die ctx va.toNat want)
/-- PTE_BUSY_RETRY (R405): the buckets are read again. -/
def execPteBusyRetry (die ctx : Nat) (va : W64) (want : Want) (s : State) : Out :=
  .next (if ctxRuns s ctx then walkFill 4 s die ctx va.toNat want else s)
/-- PUBLISH_COMPLETE (R436): the staging reads follow every earlier access of the issuing wave, and its earlier PUBLISH (R16). -/
def execPublishComplete (id : Nat) (s : State) : Out :=
  match findPending s id with
  | some p =>
    match p.kind with
    | .publish base len =>
      if ctxRuns s p.ctx && inTurn s p (fun k => match k with | .publish _ _ => true | _ => false) &&
          !(s.pend.any fun q => q.uid == p.uid && !q.thread && q.id < p.id && isAccess q.kind) then
        .next (publishEnd p base len s)
      else .next s
    | _ => .next s
  | none => .next s
/-- VERSION_LOAD (R67, R68, R437, R438): the object at `va` becomes a version, unless the loader rejects it; a patch inherits
the erratum list of the version it supersedes. -/
def execVersionLoad (ctx : Nat) (va : W64) (patches : Option Nat) (s : State) : Out :=
  let (s, served, h) := readRange s 0 ctx va.toNat 64
  match if served == .ok then readRange s 0 ctx va.toNat (max 64 (bytesAt h 0x30 8)) else (s, served, []) with
  | (s, .lost, _) => .next s
  | (s, .wait, _) => .next { s with inputs := .reload ctx va patches :: s.inputs }
  | (s, .ok, b) =>
    let compat := match patches.bind (findVer s ctx) with
      | some v => some v.compat
      | none => compatOf b
    match compat with
    | some x => .next (if objectOk b then addVersion ctx va.toNat b x patches s else s)
    | none => .next s
/-- The host unloads a version: one that no grid references is freed, another retires (R438). -/
def unloadVersion (ctx ver : Nat) (s : State) : State :=
  freeVers ctx (onCtx ctx (fun x => { x with vers := x.vers.map fun v => if v.id == ver then { v with retired := true } else v }) s)
/-- FORCED_UNLOAD (R438). -/
def execForcedUnload (ctx ver : Nat) (s : State) : Out :=
  let s := if (allWaves s).any fun w => w.ctx == ctx && w.ver == ver then raiseHalt ctx .unload none s else s
  let gone (v : Version) : Version := if v.id == ver then { v with retired := true, freed := true } else v
  .next (onCtx ctx (fun x => { x with vers := x.vers.map gone }) s)

/-- What met an error: its die, context, wave, MODE.STRICT and trap. -/
structure Victim where
  die : Nat
  ctx : Nat
  uid : Nat
  strict : Bool
  trap : Trap
deriving DecidableEq, Repr, Inhabited
/-- The work that an error in a line was found at: an access that touches it, a texture request, a copy, a Porter stream or a
raster batch, by number. Of the last three the manual gives TRAPADDR no value (assumption 20). -/
def victimOf (s : State) (line id : Nat) : Option Victim :=
  let at_ (pc : PC) : Trap := eccTrap 1 0 (freeW64 s 39).toNat pc
  match findPending s id with
  | some p =>
    let ls := if isAccess p.kind then p.lanes.filter fun a => rangesMeet a.key (accSize p.kind) line 64
      else if p.kind == .texture then p.lanes else []
    let v (t : Trap) : Option Victim := some { die := p.die, ctx := p.ctx, uid := p.uid, strict := p.mode.getLsbD 7, trap := t }
    if p.kind == .raster then v (at_ p.pc) else if ls.isEmpty then none else v (laneTrap p 1 ls)
  | none =>
    match s.tags.find? fun t => t.copy.any fun c => c.order == id with
    | some t => t.copy.map fun c => { die := t.die, ctx := c.ctx, uid := c.uid, strict := c.strict, trap := at_ c.pc }
    | none => (allWaves s).findSome? fun w => (w.streams.find? fun x => x.id == id).map fun x =>
        { die := w.die, ctx := w.ctx, uid := w.uid, strict := w.mode.getLsbD 7, trap := at_ x.pc }
/-- The die whose L2, GDDR7 or stash an error of a line is found in: its home's, or for a peer's line that of an L2 that holds a
copy, which the manual does not fix (Table 4.1, assumption 20). -/
def errorDie (s : State) (line : Nat) : Nat :=
  if tgtOfKey line == 0 || tgtOfKey line == 2 then dieOfKey line else choose s 31 64
/-- UNCORRECTABLE_ERROR (R262): found at an access, when `id` names one. -/
def execUncorrectableError (line id : Nat) (s : State) : Out :=
  let line := 64 * (line / 64)
  if !(tgtOfKey line == 0 || tgtOfKey line == 2 || tgtOfKey line == 4) then .next s
  else
    let hit := victimOf s line id
    let die := match hit with
      | some v => if tgtOfKey line == 4 then v.die else dieOfKey line
      | none => errorDie s line
    let s := onDie die (fun d => { d with ue := satInc d.ue }) (zeroLine line s)
    let s := logEvent 2 die (Config.undefWord s.freeCtr 10 line).toNat ((hit.map (·.ctx)).getD 0) (line % 2 ^ 44) s
    .next (match hit with
      | some v => postError v.die v.ctx v.uid v.trap (if v.strict then raiseFatal v.ctx v.uid v.trap s else s)
      | none => s)
/-- CORRECTED_ERROR (R262, R495): counted always, logged at most once per line per second, whatever the ring has dropped since. -/
def execCorrectedError (line : Nat) (s : State) : Out :=
  let line := 64 * (line / 64)
  let die := errorDie s line
  let s := onDie die (fun d => { d with ce := satInc d.ce }) s
  let recent := s.plat.corrected.filter fun e => s.clock < e.2 + 2000000000
  .next (if recent.any fun e => e.1 == line then s
    else logEvent 1 die (Config.undefWord s.freeCtr 10 line).toNat 0 (line % 2 ^ 44)
      (onPlat (fun p => { p with corrected := (line, s.clock) :: recent }) s))

end Sys2Proof.Machine
end

