-- ==== Sys2Proof/Machine/Traps.lean ====
section
/-! DEFINITION. The delivery of traps (R165, R166, R415), the host fault queue (R422, R423) and HRET (R184, R419). -/
namespace Sys2Proof.Machine
open Sys2Proof

/-! ### Delivery (R165) -/

/-- Is the split's trap posted to the host? -/
def isPosted (s : State) (w : Wave) (x : Split) : Bool := s.posted.any fun p => !p.err && p.uid == w.uid && p.entry == x.idx
/-- The splits whose traps may be delivered: pending, not stopped (R179), not posted. -/
def trapped (s : State) (w : Wave) : List Split :=
  w.splits.filter fun x => x.state == .trapq && x.trap.isSome && !x.stop && !isPosted s w x
/-- The split with the lowest TSEQ (R164). -/
def lowestTseq (w : Wave) (l : List Split) : Option Split :=
  l.foldl (fun b x => match b with
    | some y => if w.seq - y.tseq < w.seq - x.tseq then some x else some y
    | none => some x) none

/-- Posts the fault of the split in focus to the host (R422). -/
def postFault (t : Trap) (s : State) : State :=
  let x : Posted :=
    { die := s.wave.die, ctx := s.wave.ctx, uid := s.wave.uid, entry := s.wave.cur.idx, idx := none, written := false, trap := t,
      err := false }
  { s with posted := s.posted ++ [x] }

/-- Delivers the trap of the split in focus (R165, R415, R418, R422). -/
def deliver (s : State) : State :=
  match s.wave.cur.trap with
  | none => s
  | some t =>
    if goesToHost s s.wave s.wave.cur t then postFault t s
    else if goesToHandler s s.wave s.wave.cur t then (if entryOwed s then s else takeException t s)
    else fatalTrap t s

/-- Step 2 of Table 5.9: a trap of a handler's split, unless it has stopped (R179), is fatal at once (R166); otherwise the
lowest TSEQ is delivered while no split has H = 1. -/
def deliverNext (s : State) : State :=
  let w := s.wave
  match w.splits.find? fun x => x.h && x.state == .trapq && !x.stop with
  | some x => deliver { s with wave := w.focus x.idx }
  | none =>
    if anyHandler w then s
    else match lowestTseq w (trapped s w) with
      | some x => deliver { s with wave := w.focus x.idx }
      | none => s

/-! ### The host fault queue (R422, R423) -/

/-- What the trap unit's own accesses want. -/
def unitWant : Want := { rd := true, wr := true, walker := true }
/-- Changes a posting. -/
def onPosted (p : Posted) (f : Posted → Posted) (s : State) : State :=
  { s with posted := s.posted.map fun x => if x == p then f x else x }
/-- Reads the ring's header (Table 14.20) and goes on with its bytes; a header that cannot be reached is read again. -/
def withHeader (p : Posted) (s : State) (go : State → List Byte → State) : State :=
  match engineRead s p.die p.ctx (descN s p.ctx 0x0A0 8) 24 unitWant with
  | (s, .ok, b) => go s b
  | (s, _, _) => s
/-- The ring's entries as a power of two. -/
def hfqSize (b : List Byte) : Nat := 2 ^ (bytesAt b 0 4 % 32)
/-- The address of an entry. -/
def hfqEntry (s : State) (p : Posted) (b : List Byte) (i : Nat) : Nat := descN s p.ctx 0x0A0 8 + 64 + 64 * (i % hfqSize b)
/-- The unit takes an index while the ring has room (step 1). -/
def takeIndex (p : Posted) (s : State) : State :=
  withHeader p s fun s b =>
    let w := bytesAt b 8 8
    if w < bytesAt b 0x10 8 + hfqSize b then
      match engineWrite s p.die p.ctx (descN s p.ctx 0x0A0 8 + 8) (bytesOf 8 (w + 1)) unitWant with
      | (s, .ok) => onPosted p (fun x => { x with idx := some w }) s
      | (s, _) => s
    else s
/-- LOC of an entry. -/
def hfqLoc (s : State) (p : Posted) : Nat :=
  match findWave p.uid s with
  | some w => w.die + 256 * w.core + 65536 * w.sub + 1048576 * w.slot
  | none => p.die
/-- Bytes 0x00 to 0x27 of an entry (R422). -/
def hfqBytes (s : State) (p : Posted) (i : Nat) : List Byte :=
  bytesOf 4 (causeWord p.trap p.entry).toNat ++ bytesOf 4 (hfqLoc s p) ++ bytesOf 8 p.trap.addr.toNat ++
    bytesOf 8 p.trap.mask.toNat ++ bytesOf 8 p.trap.pc.toNat ++ bytesOf 8 i
/-- The entry is written once its slot's previous poster has read a completion (steps 2 to 4). -/
def writeEntry (p : Posted) (i : Nat) (s : State) : State :=
  withHeader p s fun s b =>
    if s.posted.any fun x => x.ctx == p.ctx && x.idx.any (fun j => j < i && (i - j) % hfqSize b == 0) then s
    else match reach s p.die p.ctx (hfqEntry s p b i) 64 unitWant with
      | (s, .ok k) =>
        let s := writeHome (writeHome s (k + 0x38) (bytesOf 8 0)) k (hfqBytes s p i)
        let s := onPosted p (fun x => { x with written := true }) s
        if bitAt (bytesAt b 4 4) 31 then sendMsix (bitsOf (bytesAt b 4 4) 15 0) s else s
      | (s, _) => s
/-- The next step of a posting. -/
def stepPosting (p : Posted) (s : State) : State :=
  match p.idx with
  | none => takeIndex p s
  | some i => if p.written then s else writeEntry p i s
/-- The host's answer to a posting (R21): the split replays its instruction, or its trap is fatal; an error event ends its
context's pause. -/
def answerPosting (p : Posted) (x : Nat) (s : State) : State :=
  let s' := { s with posted := s.posted.filter fun y => y != p }
  if p.err then (if x == 1 then onCtx p.ctx (fun c => { c with paused := false }) s' else s)
  else
    let t := focusSplit p.uid p.entry s'
    if x == 1 then
      let work := t.wave.cur.work
      let c : Split := { t.wave.cur with state := .ready, trap := none, tseq := 0, work := .none }
      let t := onFocus (resolvePorter false work) { t with wave := { t.wave with cur := c } }
      match work with
      | .copy tag => resolveCopy false t.wave.die t.wave.core tag t
      | _ => t
    else fatalTrap p.trap t
/-- The completion word of a written entry is read, and its first nonzero value acted on. -/
def completePosting (p : Posted) (s : State) : State :=
  match p.idx with
  | some i =>
    if !p.written then s
    else withHeader p s fun s b =>
      match engineRead s p.die p.ctx (hfqEntry s p b i + 0x38) 8 unitWant with
      | (s, .ok, c) => if natOfBytes c == 0 then s else answerPosting p (natOfBytes c) s
      | (s, _, _) => s
  | none => s
/-- The posting of a split's fault, or with entry 32 of the wave's error event. -/
def findPosted (s : State) (uid e : Nat) : Option Posted :=
  s.posted.find? fun p => p.uid == uid && (if e == 32 then p.err else !p.err && p.entry == e)

/-! ### HRET (R184, R419) -/

/-- Is an access of the handler's lanes still to be performed, or a result owed to the registers that it restores? -/
def handlerOwes (s : State) : Bool :=
  let m := ((s.wave.cur.handler.map (·.mask)).getD 0) ||| s.wave.cur.mask
  entryOwed s || s.pend.any fun p => p.uid == s.wave.uid && !p.thread && isAccess p.kind &&
    (p.scalar || p.lanes.any fun a => Mask.has m a.lane)
/-- HRET: the return, then the engine work of the trap is restarted or dropped (R313, R347). -/
def hretR (f : RF) (s : State) : Eff :=
  let skip := f.md == 1#2
  let h := s.wave.cur.handler
  let work := (h.map (·.work)).getD .none
  if handlerOwes s then .hold []
  else if skip && ((h.map (·.hdr)).getD false || !skipAllowed work s.wave) then
    .trap { cause := 1, sub := 2, mask := s.wave.cur.mask }
  else if skip && (lengthAt s s.wave (h.bind (·.blk)) (s.wave.tPc.extractLsb' 0 49)).isNone then
    .hold [walkFor s.wave.die s.wave.ctx (pcBytes s.wave.isL (s.wave.tPc.extractLsb' 0 49)) (fetchWant s true)]
  else
    let s := onFocus (resolvePorter skip work) (exceptionReturn skip s)
    .jump (match work with
      | .copy tag => resolveCopy skip s.wave.die s.wave.core tag s
      | _ => s)

/-! ### The arms -/

def execHret (f : RF) (s : State) : Out := issue (.hret f) s (hretR f)

/-- TRAP_DELIVERY (R165). -/
def execTrapDelivery (uid : Nat) (s : State) : Out :=
  let s := { focusWave uid s with acc := false }
  .next (if s.wave.live && s.wave.uid == uid && ctxRuns s s.wave.ctx && s.wave.parked.isNone then deliverNext s else s)
/-- HFQ_POST (R423). -/
def execHfqPost (uid e : Nat) (s : State) : Out :=
  match findPosted s uid e with
  | some p => .next (stepPosting p s)
  | none => .next s
/-- HFQ_FULL_RETRY (R423): RIDX is read again. -/
def execHfqFullRetry (uid e : Nat) (s : State) : Out :=
  match findPosted s uid e with
  | some p => .next (if p.idx.isNone then takeIndex p s else s)
  | none => .next s
/-- HFQ_COMPLETION_POLL (R423). -/
def execHfqCompletionPoll (uid e : Nat) (s : State) : Out :=
  match findPosted s uid e with
  | some p => .next (if (findCtx s p.ctx).any fun c => c.state == .running then completePosting p s else s)
  | none => .next s

end Sys2Proof.Machine
end

