-- ==== Sys2Proof/Machine/Records.lean ====
section
/-! DEFINITION. The engines that a halt stops, and their stop records: images of splits, deferrals and traps, and the bodies
(R424 to R427, R316, R348, R369, R394, R432, R468). -/
namespace Sys2Proof.Machine
open Sys2Proof

/-! ### The engines of a context (R424, R425) -/

/-- The (die, core) pairs on which a context has teams or tags. -/
def ctxCores (s : State) (c : Nat) : List (Nat × Nat) :=
  ((s.teams.filterMap fun t => if t.ctx == c then some (t.die, t.core) else none) ++
   (s.tags.filterMap fun t => if t.copy.any (fun x => x.ctx == c) then some (t.die, t.core) else none)).eraseDups
/-- The dies a context runs on, its queues' dies included. -/
def ctxDies (s : State) (c : Nat) : List Nat :=
  ((ctxCores s c).map (·.1) ++ s.queues.filterMap fun q => if q.ctx == some c then some q.die else none).eraseDups
/-- The engines of a core. -/
def coreEngines (die core : Nat) : List Engine :=
  let subs := List.range (if 16 ≤ core then 2 else 8)
  subs.map (Engine.sequencer die core) ++ (if 16 ≤ core then [] else subs.map (Engine.porter die core) ++
    subs.map (Engine.matrix die core)) ++
    [.courier die core, .memUnit die core]
/-- The engines that belong to a die. -/
def dieEngines (die : Nat) : List Engine :=
  [.raster die] ++ (List.range 4).map (Engine.texture die) ++ (List.range 4).map (Engine.atomicUnit die) ++ [.queueProc die, .walker die]
/-- Every engine whose acknowledgement a halt awaits. -/
def ctxEngines (s : State) (c : Nat) : List Engine :=
  (ctxCores s c).flatMap (fun p => coreEngines p.1 p.2) ++ (ctxDies s c).flatMap dieEngines

/-- Code, die, core of the save slot (20 for the die's), and sub-core or unit index (Tables 14.13, 14.14). -/
def engAt : Engine → Nat × Nat × Nat × Nat
  | .sequencer d c b => (1, d, c, b)
  | .porter d c b => (2, d, c, b)
  | .courier d c => (3, d, c, 0)
  | .matrix d c b => (4, d, c, b)
  | .memUnit d c => (5, d, c, 0)
  | .raster d => (6, d, 20, 0)
  | .texture d u => (7, d, 20, u)
  | .atomicUnit d u => (8, d, 20, u)
  | .queueProc d => (9, d, 20, 0)
  | .walker d => (10, d, 20, 0)

/-- Has the engine reached its stop unit (R425)? Every event of the model ends at one; a texture instruction issued completes
first (R479), and so does an access to a stash window, whose place the swap may give away. -/
def engineStopped (s : State) (c : Nat) : Engine → Bool
  | .texture d _ => !(s.pend.any fun p => p.ctx == c && p.die == d && p.kind == .texture)
  | .memUnit _ _ => !(s.pend.any fun p => p.ctx == c && isAccess p.kind && p.lanes.any fun a => tgtOfKey a.key == 2)
  | _ => true

/-! ### Images of splits, deferrals and traps (Tables 5.1 to 5.4, R427) -/

/-- STATE codes (Table 5.3). -/
def SplitState.code : SplitState → Nat
  | .ready => 1 | .rjwait => 2 | .ffwait => 3 | .barwait => 4 | .sleep => 5 | .trapq => 6 | .migq => 7
/-- CTRL of a split's image (Table 5.2): a halt stops every split (R169). -/
def ctrlOf (s : State) (w : Wave) (x : Split) : Nat :=
  let b (c : Bool) (n : Nat) : Nat := if c then 2 ^ n else 0
  (if x.state == .trapq then x.tseq.toNat else 0) * 2 ^ 32 + b x.skip 19 + x.rj.length * 2 ^ 16 + b x.cur 15 +
    b (x.stop || !ctxRuns s w.ctx) 14 + b x.h 13 +
    w.slot * 2 ^ 9 + ageOf s w.die w.core w.sub x * 2 ^ 4 + x.state.code
/-- A split-table entry's image (Table 5.1). -/
def splitImage (s : State) (w : Wave) (x : Split) : List Byte :=
  bytesOf 8 x.mask.toNat ++ bytesOf 8 x.pc.toNat ++ bytesOf 8 (ctrlOf s w x) ++ bytesOf 4 x.lf.toNat ++
    bytesOf 4 (if x.state == .rjwait then x.deadline.toNat else 0) ++ List.replicate 32 0 ++
    (List.range 4).flatMap fun i => match x.rj[i]? with
      | some r => bytesOf 8 (r.addr.toNat + (if r.late then 2 ^ 62 else 0) + 2 ^ 63) ++ bytesOf 8 r.mask.toNat
      | none => List.replicate 16 0
/-- A deferral entry's image (Table 5.4). -/
def deferralImage (d : Deferral) : List Byte :=
  bytesOf 8 d.mask.toNat ++ bytesOf 8 (d.pc.toNat + (if d.held then 2 ^ 62 else 0) + 2 ^ 63) ++
    bytesOf 8 (match d.rj with | some r => r.toNat + 2 ^ 63 | none => 0) ++ bytesOf 8 d.owner
/-- The trap that raised a context's halt, if it is this wave's and entry's. -/
def raiserOf (x : Ctx) (w : Wave) (e : Nat) : Option Trap :=
  x.fatal.bind fun f => if f.1 == w.uid && f.2.1 == e then some f.2.2 else none
/-- The pending traps an image list names: a split of TRAPQ, and the split whose trap raised the halt (R427), with RACT
(R428). -/
def pendingTraps (x : Ctx) (w : Wave) : List (Nat × Trap × Nat) :=
  (sortBy (fun a b => a.idx ≤ b.idx) w.splits).filterMap fun y =>
    match raiserOf x w y.idx with
    | some t => some (y.idx, t, if t.cause == 5 && t.sub == 1 then 1 else 0)
    | none => if y.state == .trapq then y.trap.map fun t => (y.idx, t, 2) else none
/-- A pending-trap image (R427). -/
def trapImage (w : Wave) (p : Nat × Trap × Nat) : List Byte :=
  let t := p.2.1
  let tseq := ((w.splits.find? fun y => y.idx == p.1).map fun y => y.tseq.toNat).getD 0
  bytesOf 4 tseq ++ bytesOf 4 (causeWord t p.1).toNat ++ bytesOf 8 t.pc.toNat ++ bytesOf 8 t.pc2.toNat ++ bytesOf 8 t.word0.toNat ++
    bytesOf 8 t.word1.toNat ++ bytesOf 8 t.mask.toNat ++ bytesOf 8 t.addr.toNat ++ bytesOf 8 p.2.2
/-- A wave's splits in the order of their entries. -/
def splitsInOrder (w : Wave) : List Split := sortBy (fun a b => a.idx ≤ b.idx) w.splits
/-- A wave's part of a sub-core record (R427). -/
def waveImage (s : State) (x : Ctx) (w : Wave) : List Byte :=
  let gid := ((findGrid s w.grid).map (·.gid)).getD 0
  let team := ((findTeam s w.team).map (·.index)).getD 0
  let ps := pendingTraps x w
  bytesOf 4 (w.slot + 256 * w.waveId + 65536 * (team % 256) + 16777216 * (gid % 256)) ++ bytesOf 4 w.seq.toNat ++ bytesOf 4 w.ver ++
    bytesOf 4 (w.splits.length + 256 * w.defs.length + 65536 * ps.length) ++ List.replicate 48 0 ++
    (splitsInOrder w).flatMap (splitImage s w) ++ w.defs.flatMap deferralImage ++ ps.flatMap (trapImage w)
/-- Pads bytes to a multiple of 64. -/
def pad64 (b : List Byte) : List Byte := b ++ List.replicate (roundUp b.length 64 - b.length) 0
/-- A context's waves on a sub-core, by slot. -/
def recordWaves (s : State) (c die core sub : Nat) : List Wave :=
  sortBy (fun a b => a.slot ≤ b.slot) ((allWaves s).filter fun w => w.onSub die core sub && w.ctx == c)

/-! ### Stop records (R426) -/

/-- Codes of halt reasons (R424). -/
def Reason.code : Reason → Nat
  | .none => 0 | .fatal => 1 | .preempt => 2 | .host => 3 | .security => 4 | .unload => 5
/-- Does an engine's record belong to the trap that raised the halt? -/
def raisesAt (s : State) (x : Ctx) (e : Engine) : Option (Nat × Trap) :=
  x.fatal.bind fun f =>
    match findWave f.1 s, e with
    | some w, .sequencer d c b => if f.2.1 != 32 && w.onSub d c b then some (f.2.1, f.2.2) else none
    | some w, .porter d c b => if f.2.1 == 32 && w.onSub d c b then some (f.2.1, f.2.2) else none
    | _, .courier d c => if f.2.1 == 33 && f.1 == 32 * d + c then some (f.2.1, f.2.2) else none
    | _, _ => none
/-- A number in `n` bytes for each of a list. -/
def numsOf (n : Nat) (l : List Nat) : List Byte := l.flatMap (bytesOf n)
/-- 1 or 0. -/
def flagN (b : Bool) : Nat := if b then 1 else 0
/-- A held fault (R316). -/
def heldBytes : Option HeldFault → List Byte
  | none => List.replicate 32 0
  | some h => numsOf 1 [1, h.cause, h.sub, flagN h.taken, 0, 0, 0, 0] ++ numsOf 8 [h.mask.toNat, h.addr.toNat, h.pc.toNat]
/-- A bound queue (R316). -/
def queueBytes (width : Nat) (q : OpQueue) : List Byte :=
  let side := match q.prod with | .none => 0 | .porter => 1 | .execute => 2
  numsOf 2 [q.name, side, flagN q.closed, q.entries.length] ++ q.entries.flatMap fun e =>
    bytesOf 8 e.valid.toNat ++ numsOf 4 ((List.range width).map fun l => (Store.get 0 e.elems l).toNat) ++ heldBytes e.fault
/-- An active stream: its descriptor and its next element or entry (R316). -/
def streamBytes (t : PStream) : List Byte :=
  numsOf 1 [flagN t.isLoad, flagN t.indexed, t.sh, t.mty.toNat, t.qi, t.qd, flagN t.limit.isSome, t.counts.length] ++
    numsOf 8 [t.base.toNat, t.limit.getD 0, t.next, t.pc.toNat] ++ numsOf 8 t.counts ++ numsOf 8 (t.strides.map (·.toNat)) ++
    heldBytes t.fault
/-- What a Porter's record says of a wave (R316), in this order of the model's own (assumption 42). -/
def porterBody (w : Wave) : List Byte :=
  let thread := match w.thread with
    | some t => numsOf 8 [1, t.pc.toNat, t.psync] ++
      numsOf 4 ((List.range 32).map fun n => (Store.get 0 t.regs n).toNat) ++ heldBytes t.fault
    | none => bytesOf 8 0
  numsOf 8 [w.slot, w.psync, w.streams.length, w.queues.length] ++ thread ++ w.streams.flatMap streamBytes ++
    w.queues.flatMap (queueBytes w.width)
/-- The operands of a copy's command. -/
def CopyKind.nums : CopyKind → List Nat
  | .cpy e ds => 0 :: e :: ds.flatMap fun d => [d.1, d.2.1.toNat, d.2.2.toNat]
  | .cpyg len sp dp rows => 1 :: len :: sp :: dp.toNat :: rows.map (·.toNat)
  | .cpyh e b edge halo w h p nb => [2, e, b, edge, halo, w, h, p] ++ nb.map (·.toNat)
  | .cpys st m pat terms ety drop cp nk cap bound => [3, st, m, pat, terms, ety, flagN drop, cp.toNat, nk, cap, bound]
  | .cpyq st rows p d n => [4, st, rows, p.toNat, d.toNat, n]
/-- What a Courier's record says of a copy (R348): its group values, next chunk and tag, and what CPYS carries. -/
def courierBody (t : Tag) : List Byte :=
  match t.copy with
  | some c => numsOf 8 ([t.tag, c.next, c.src.toNat, c.dst.toNat, c.aux.toNat,
    (c.sig.map (·.1)).getD 0, c.rcount, c.l1, c.l1x, c.tused, c.kind.nums.length] ++ c.kind.nums)
  | none => []
/-- What a matrix unit's record says of a wave (R361, R369): the bits, bindings and contents, and each queued instruction with the
steps already applied. -/
def matrixBody (w : Wave) : List Byte :=
  numsOf 4 [w.slot, flagN w.mNan + 2 * flagN w.mMism, w.tiles.length, w.mstreams.length, w.mcmds.length] ++
    (w.mcmds.flatMap fun m => numsOf 8 [(word0Of m.instr).toNat, m.pc.toNat, m.step, m.entry] ++
      numsOf 4 (m.vals.length :: m.idxs.length :: (m.vals ++ m.idxs).map (·.toNat))) ++
    (w.tiles.flatMap fun t => bytesOf 4 t.name ++ numsOf 4 ((List.range 256).map fun n => (Store.get 0 t.elems n).toNat)) ++
    w.mstreams.flatMap fun m => numsOf 4 [m.kind, m.name, m.owed, m.entries.length] ++ m.entries.flatMap id
/-- What a memory unit's record says of a reply owed to a register (R432). -/
def replyBody (s : State) (p : Pending) : List Byte :=
  numsOf 2 [((anyWave p.uid s).map (·.slot)).getD 0, flagN p.thread + 2 * flagN p.scalar, p.dst, p.ndst] ++
    bytesOf 8 (Mask.ofLanes (p.lanes.map (·.lane))).toNat
/-- What a queue processor's record says of a context (R394): its queues, grids with unplaced teams, and bins. -/
def queueBody (s : State) (c d : Nat) : List Byte :=
  ((s.queues.filter fun q => q.ctx == some c && q.slot / 64 == d).flatMap fun q =>
    numsOf 8 [q.slot, q.state.code, q.ridx, q.latched.foldl (fun a n => a + 2 ^ n) 0]) ++
  ((s.grids.filter fun g => g.ctx == c && g.unplaced.any fun u => u.2 == d).flatMap fun g =>
    let us := g.unplaced.filter fun u => u.2 == d
    numsOf 8 (g.gid :: us.length :: us.map (·.1))) ++
  (s.bins.filter fun b => b.die == d && (findGrid s b.child).any fun g => g.ctx == c).flatMap fun b =>
    numsOf 8 [b.num, b.entry, b.recs.length] ++ b.recs.flatMap fun r => numsOf 8 (r.age :: r.words.map (·.toNat))
/-- What a raster engine's record says of a batch (R468): descriptor address, extension word, the issuing split's core, sub-core,
slot and entry, D, phase, next tile, next quad and running totals. The next tile is that of the next quad while quads are to be
written; the totals leave out what is not written yet. -/
def rasterBody (s : State) (b : Batch) : List Byte :=
  let w := (anyWave b.uid s).getD Wave.noWave
  let tile : Int × Int := if b.quads.isEmpty then b.tiles.headD (0, 0) else b.tile.getD (0, 0)
  let covs := (b.quads.flatMap fun q => q.map fun r => (r.getD 1 0).toNat).filter (· != 0)
  numsOf 8 [b.desc.toNat, b.kind + 4 * b.rule + (if b.noemit then 16 else 0)] ++
    numsOf 1 [b.core, w.sub, w.slot, b.entry, b.d, b.phase] ++ bytesOf 2 b.quads.length ++
    bytesOf 4 (wrapN tile.1 32) ++ bytesOf 4 (wrapN tile.2 32) ++ bytesOf 8 (((b.quads.headD []).headD []).headD 0).toNat ++
    numsOf 8 [b.items, b.badItems, b.segs, b.ntiles - flagN (!b.quads.isEmpty), b.nquads - b.quads.length, b.frags - covs.length,
      b.covsum - covs.foldl (· + ·) 0]
/-- The body of a record (Table 14.13). The manual lays out only the sub-core's (R427); of the others it says what they hold,
and the order and widths are the model's own (assumption 42). -/
def recordBody (s : State) (x : Ctx) (e : Engine) : List Byte :=
  match e with
  | .sequencer d c b => pad64 ((recordWaves s x.id d c b).flatMap (waveImage s x))
  | .porter d c b => pad64 ((recordWaves s x.id d c b).flatMap porterBody)
  | .courier d c => pad64 ((s.tags.filter fun t => t.die == d && t.core == c && t.copy.any fun y => y.ctx == x.id).flatMap courierBody)
  | .matrix d c b => pad64 ((recordWaves s x.id d c b).flatMap matrixBody)
  | .memUnit d c => pad64 ((s.pend.filter fun p => p.ctx == x.id && p.die == d && p.core == c && p.ndst != 0 && isAccess p.kind).flatMap
      (replyBody s))
  | .raster d => pad64 (((findDie s d).raster.filter fun b => b.ctx == x.id).flatMap (rasterBody s))
  | .queueProc d => pad64 (queueBody s x.id d)
  | .texture _ _ => []
  | .atomicUnit _ _ => []
  | .walker _ => []
/-- CAUSE of a record: the trap's that raised the halt, or in a halt with reason SECURITY that of Table 14.4. -/
def recordCause (x : Ctx) (f : Option (Nat × Trap)) : Nat :=
  match f with
  | some t => (causeWord t.2 t.1).toNat
  | none => if x.reason == .security then 0x0110 else 0
/-- A stop record (Table 14.14). -/
def stopRecord (s : State) (x : Ctx) (reason : Nat) (e : Engine) (body : List Byte) : List Byte :=
  let (code, die, core, unit) := engAt e
  let f := raisesAt s x e
  bytesOf 4 (code + 256 * reason) ++ bytesOf 4 (die + 256 * (if core == 20 then 0 else core) + 65536 * unit) ++ bytesOf 4 x.id ++
    bytesOf 4 (64 + body.length) ++ bytesOf 8 s.clock ++ bytesOf 4 (recordCause x f) ++ bytesOf 4 0 ++
    bytesOf 8 ((f.map fun (t : Nat × Trap) => t.2.pc.toNat).getD 0) ++
    bytesOf 8 ((f.map fun (t : Nat × Trap) => t.2.pc2.toNat).getD 0) ++
    bytesOf 8 (s.clock - x.haltAt) ++ bytesOf 8 0 ++ body
/-- Where record `n` of a slot begins, by the lengths of those before it. -/
def recordAt (s : State) (slot : Nat) : Nat → Nat
  | 0 => slot + 64
  | n + 1 => let a := recordAt s slot n; a + cohNat s (a + 12) 4
/-- Appends a record to its slot, and counts it in the directory (R426). -/
def writeRecord (s : State) (c : Nat) (e : Engine) (r : List Byte) : State :=
  match saveSlot s c (engAt e).2.1 (engAt e).2.2.1 with
  | none => s
  | some k =>
    let n := cohNat s k 4
    let a := recordAt s k n
    if k + 2 ^ 20 < a + r.length then s
    else writeHome (writeHome s a r) k (bytesOf 4 (n + 1) ++ List.replicate 60 0)
/-- Does the halt write records (R426)? -/
def writesRecords (s : State) (x : Ctx) : Bool := x.reason != .preempt || assist s x.id 2
/-- Empties the record directory of a slot as the first record of a halt comes (R426). -/
def firstRecord (s : State) (x : Ctx) (e : Engine) : State :=
  if x.acks.any fun y => (engAt y).2.1 == (engAt e).2.1 && (engAt y).2.2.1 == (engAt e).2.2.1 then s
  else match saveSlot s x.id (engAt e).2.1 (engAt e).2.2.1 with
    | some k => writeHome s k (List.replicate 64 0)
    | none => s

end Sys2Proof.Machine
end

