-- ==== Sys2Proof/Machine/Halt.lean ====
section
/-! DEFINITION. The halt line's course and RESUME (R168, R169, R179, R424 to R428), pre-emption, images and
RESTORE (R429 to R433, R169). -/
namespace Sys2Proof.Machine
open Sys2Proof

/-! ### Acknowledging a halt (R424 to R426) -/

/-- A hardware breakpoint that raised the halt leaves SKIP set (R178, R428). -/
def skipRaiser (x : Ctx) (s : State) : State :=
  match x.fatal with
  | some (uid, e, t) =>
    if t.cause == 5 && t.sub == 2 then
      onWave uid (fun w => w.mapSplits fun y => if y.idx == e then { y with skip := true } else y) s
    else s
  | none => s
/-- A sequencer that acknowledges a halt ends its context's sleeps (R186, R187). -/
def endSleeps (c : Nat) (e : Engine) (s : State) : State :=
  match e with
  | .sequencer d co b => mapWaves (fun w =>
      if w.ctx == c && w.onSub d co b then
        w.mapSplits fun x => if x.state == .sleep then { x with state := .ready, sleep := 0, waitmem := none } else x
      else w) s
  | _ => s
/-- An engine acknowledges the halt (R425, R426). -/
def ackEngine (x : Ctx) (e : Engine) (s : State) : State :=
  let s := endSleeps x.id e s
  let s := if writesRecords s x then
      (let s := firstRecord (skipRaiser x s) x e
       writeRecord s x.id e (stopRecord s x x.reason.code e (recordBody s x e))) else s
  onCtx x.id (fun y => { y with acks := y.acks ++ [e] }) s

/-! ### RESUME (R428) -/

/-- The place of a sub-core's record, if this halt has written one. -/
def recordOf (s : State) (x : Ctx) (die core sub : Nat) : Option Nat :=
  let mine := x.acks.filter fun y => (engAt y).2.1 == die && (engAt y).2.2.1 == core
  match saveSlot s x.id die core, mine.findIdx? fun y => y == .sequencer die core sub with
  | some k, some n => if writesRecords s x then some (recordAt s k n) else none
  | _, _ => none
/-- A PC as its image holds it now. -/
def imagePc (s : State) (a : Nat) : PC := BitVec.ofNat 49 (cohNat s a 8 % 2 ^ 49)
/-- The split goes on as its RACT says (R428). -/
def actRact (s : State) (w : Wave) (ract : Nat) (y : Split) : Split :=
  if ract == 2 then y
  else
    let pc := if ract == 1 then y.pc + BitVec.ofNat 49 ((lengthAt s w y.blk y.pc).getD 1) else y.pc
    let go := if y.state == .trapq then { y with state := .ready, trap := none, tseq := 0, work := .none } else y
    { go with posted := if ract == 1 then none else go.posted }.goto w.isL pc
/-- A wave resumes from its images at `a` (R428); the images' PC and RACT fields are read back. -/
def resumeWave (s : State) (x : Ctx) (a : Nat) (w : Wave) : Wave :=
  let sp := splitsInOrder w
  let ps := pendingTraps x w
  let pcs := ((List.range sp.length).zip sp).map fun p => (p.2.idx, imagePc s (a + 64 + 128 * p.1 + 8))
  let b := a + 64 + 128 * sp.length
  let defs := ((List.range w.defs.length).zip w.defs).map fun p =>
    let pc := imagePc s (b + 32 * p.1 + 8)
    if pc == p.2.pc then p.2 else { p.2 with pc := pc, blk := p.2.blk.filter fun k => k.has w.isL pc }
  let t := b + 32 * w.defs.length
  let racts := ((List.range ps.length).zip ps).map fun p => (p.2.1, cohNat s (t + 64 * p.1 + 56) 1)
  let go (y : Split) : Split :=
    let pc := ((pcs.find? fun p => p.1 == y.idx).map (·.2)).getD y.pc
    let y := if pc == y.pc then y else y.goto w.isL pc
    let y := { y with stop := false, readyCount := 0, missCount := 0 }
    match racts.find? fun r => r.1 == y.idx with
    | some r => actRact s w r.2 y
    | none => y
  let w' := { w with defs := defs }.mapSplits go
  racts.foldl (fun w' r => if r.2 == 2 then w'
    else match w.splits.find? fun y => y.idx == r.1 with
      | some y => if y.state == .trapq then markTaken false y.work w' else w'
      | none => w') w'
/-- Bytes of a wave's part of a record. -/
def waveLen (x : Ctx) (w : Wave) : Nat := 64 + 128 * w.splits.length + 32 * w.defs.length + 64 * (pendingTraps x w).length
/-- The waves of a record with the places of their parts. -/
def partsFrom (x : Ctx) : Nat → List Wave → List (Nat × Wave)
  | _, [] => []
  | a, w :: t => (a, w) :: partsFrom x (a + waveLen x w) t
/-- The waves of a context bound to a freed version: CODEGONE (R438). -/
def codeGone (c : Nat) (s : State) : State :=
  match (allWaves s).find? fun w => w.ctx == c && (match findVer s c w.ver with | some v => v.freed | none => false) with
  | some w =>
    raiseHalt c .fatal (some (w.uid, w.cur.idx,
      { cause := 0x0D, sub := 1, mask := w.cur.mask, addr := 0, pc := w.cur.pc, pc2 := trapPc2 s w w.cur.pc, word0 := 0, word1 := 0,
        hdr := false })) s
  | none => s
/-- A context runs again: its waves go on behind what they did before it stopped (R133); a fatal trap that came meanwhile (R87,
R432) or a version that has gone (R438) halts it. -/
def runAgain (c : Nat) (s : State) : State :=
  codeGone c (raiseLate c (onCtx c (fun y => { y with state := .running, acks := [], fatal := none })
    (mapWaves (fun w => if w.ctx == c then afterStop s w else w) s)))
/-- Every wave of a halted context resumes. -/
def resumeCtx (x : Ctx) (s : State) : State :=
  let subs := (ctxCores s x.id).flatMap fun p => (List.range 8).map fun (b : Nat) => (p.1, p.2, b)
  let s' := subs.foldl (fun t p =>
    match recordOf s x p.1 p.2.1 p.2.2 with
    | some a =>
      (partsFrom x (a + 64) (recordWaves s x.id p.1 p.2.1 p.2.2)).foldl (fun t q => onWave q.2.uid (resumeWave s x q.1) t) t
    | none => t) s
  runAgain x.id s'

/-! ### Images of a core (R429 to R431) -/

/-- A context's waves on a core. -/
def coreWaves (s : State) (c die core : Nat) : List Wave :=
  (allWaves s).filter fun w => w.live && w.ctx == c && w.die == die && w.core == core
/-- Dirty mapped lines of a context go home (R279). -/
def saveDirty (c : Nat) (s : State) : State :=
  (s.teams.filter fun t => t.ctx == c).foldl (fun s t => t.dirty.foldl (fun s d => writeBackLine t.id d s) s) s
/-- A saved wave: its results are written (R54), and MODE is as SWR left it (R194). -/
def saveWave (w : Wave) : Wave := { w with mode := w.modeNext.getD w.mode, modeNext := none }.mapSplits Split.settled
/-- The bytes of a wave's register rows. -/
def rowBytes (w : Wave) : Nat := 4 * w.width * w.regs
/-- The bytes of the rest of a wave's part of a core image (R429): scalar registers, split table, deferrals, matrix and queue
entries and the Porter's state, each at its size in Tables 5.1, 5.4 and 2.1 and in chapters 10 and 12. -/
def restBytes (w : Wave) : Nat :=
  640 + 128 * w.splits.length + 32 * w.defs.length + 1024 * w.tiles.length + 256 * w.streams.length +
    (w.mstreams.map fun m => (m.entries.map List.length).foldl (· + ·) 0).foldl (· + ·) 0 +
    (w.queues.map fun q => q.entries.length * (8 + 4 * w.width)).foldl (· + ·) 0
/-- The sub-cores, highest first, whose register rows do not fit the shadow store's 2.5 MiB with the rest of the image; its
exact size is the implementation's (R429, assumption 42). -/
def rowsOut (ws : List Wave) : List Nat :=
  let rest := (ws.map restBytes).foldl (· + ·) 0
  let fits (n : Nat) : Bool := rest + ((ws.filter fun w => w.sub < n).map rowBytes).foldl (· + ·) 0 ≤ 5 * 2 ^ 19
  let n := ((List.range 9).reverse.find? fits).getD 0
  (List.range 8).filter fun b => n ≤ b && ws.any fun w => w.sub == b
/-- Takes a context's image off a core; its stash stays where it is. -/
def takeImage (c die core : Nat) (shadow : Bool) (s : State) : State :=
  let mine (t : Tag) : Bool := t.die == die && t.core == core &&
    ((t.team.bind (findTeam s)).any (fun x => x.ctx == c) || t.copy.any fun x => x.ctx == c)
  let i : Image :=
    { ctx := c, die := die, core := core, shadow := shadow, step := Config.stepTag, waves := (coreWaves s c die core).map saveWave,
      teams := s.teams.filter fun t => t.ctx == c && t.die == die && t.core == core, tags := s.tags.filter mine, outs := [],
      rows := if shadow then rowsOut (coreWaves s c die core) else [] }
  let s := removeWaves (fun w => w.live && w.ctx == c && w.die == die && w.core == core) s
  let s := { s with images := s.images ++ [i], tags := s.tags.filter fun t => !mine t,
                    teams := s.teams.filter fun t => !(t.ctx == c && t.die == die && t.core == core) }
  if i.rows.isEmpty then s else imageWords c die core true s
/-- An image moves to its save slot (R429 step 1, R431); its stash stays while there is room (R430). -/
def toSave (i : Image) (s : State) : State :=
  imageWords i.ctx i.die i.core true (onImage i.ctx i.die i.core (fun x => { x with shadow := false, rows := [] }) s)
/-- The dies that a context's images and queues lie on. -/
def imageDies (s : State) (c : Nat) : List Nat :=
  ((s.images.filterMap fun i => if i.ctx == c then some i.die else none) ++
    s.queues.filterMap fun q => if q.ctx == some c then some q.die else none).eraseDups
/-- The state of the dies' own engines moves to the dies' slots (R431). -/
def dieSave (c : Nat) (s : State) : State := (imageDies s c).foldl (fun s d => imageWords c d 20 true s) s

/-- The swap of a core (R429 steps 1 and 2). An L-core has no shadow store (Table 15.1): its image goes to the save area. -/
def swapCore (c : Nat) (inc : Option Nat) (die core : Nat) (s : State) : State :=
  let other := s.images.filter fun i => i.shadow && i.die == die && i.core == core && some i.ctx != inc
  let s := other.foldl (fun s i => onCtx i.ctx (fun x => { x with state := .inSave }) (dieSave i.ctx (toSave i s))) s
  let s := takeImage c die core (core < 16) s
  if core < 16 then s
  else match s.images.find? fun i => i.ctx == c && i.die == die && i.core == core with
    | some i => toSave i s
    | none => s
/-- The swap of a pre-empted context (R429, R431). -/
def swapCtx (x : Ctx) (s : State) : State :=
  let s := saveDirty x.id s
  let cores := ctxCores s x.id
  if assist s x.id 2 then
    let s := cores.foldl (fun s p =>
      let s := takeImage x.id p.1 p.2 false s
      match s.images.find? fun i => i.ctx == x.id && i.die == p.1 && i.core == p.2 with
      | some i => toSave i s
      | none => s) s
    onCtx x.id (fun y => { y with state := .inSave }) (dieSave x.id s)
  else
    let s := cores.foldl (fun s p => swapCore x.id x.inc p.1 p.2 s) s
    let s := onCtx x.id (fun y => { y with state := .inShadow }) s
    match x.inc with
    | some i =>
      let s := reloadDesc i s
      onCtx i (fun y => if s.plat.powered && (y.state == .inShadow || y.state == .inSave) then { y with state := .restoring } else y) s
    | none => s

/-- Must the swap of a context wait for a copy that owns bytes of a slot it writes, or of the descriptor it reads (R127)? -/
def swapWaits (s : State) (x : Ctx) : Bool :=
  x.inc.any (descOwned s) ||
    (ctxCores s x.id).any fun p => slotOwned s x.id p.1 p.2 || slotOwned s x.id p.1 20 ||
      s.images.any fun i => i.die == p.1 && i.core == p.2 && (slotOwned s i.ctx i.die i.core || slotOwned s i.ctx i.die 20)

/-! ### Placing an image (R430 to R432) -/

/-- A saved wave's physical resources are free on its sub-core (R139, R141, R291, R292, R350, R352). -/
def roomForWave (s : State) (w : Wave) : Bool :=
  let ws := (allWaves s).filter (Wave.onSub w.die w.core w.sub)
  let total (f : Wave → Nat) : Nat := (ws.map f).foldl (· + ·) (f w)
  total (fun x => x.splits.length) ≤ (if w.isL then 8 else 32) && total (fun x => x.queues.length) ≤ 16 &&
  total (fun x => x.streams.length) ≤ 16 &&
  total (fun x => x.tiles.length) ≤ 32 &&
  (List.range 3).all fun k => total (fun x => (x.mstreams.filter fun m => m.kind == k).length) ≤ 4
/-- The entries of a wave in their order of creation, and the new index of one. -/
def entryOrder (w : Wave) : List Nat := (sortBy (fun a b => a.born ≤ b.born) w.splits).map (·.idx)
def newEntry (free : List Nat) (w : Wave) (e : Nat) : Nat :=
  match (entryOrder w).findIdx? fun x => x == e with | some n => free.getD n 0 | none => e
/-- New entry indices for a wave's splits, in their order of creation. -/
def renumber (free : List Nat) (born : Nat) (w : Wave) : Wave :=
  let new (e : Nat) : Nat := newEntry free w e
  let rank (e : Nat) : Nat := ((entryOrder w).findIdx? fun x => x == e).getD 0
  { w with defs := w.defs.map fun (d : Deferral) => { d with owner := new d.owner } }.mapSplits fun x =>
    if x.mask == 0#64 then x else { x with idx := new x.idx, born := born + rank x.idx, readyCount := 0, missCount := 0 }
/-- Places a saved wave on its sub-core; a fault posted to the host keeps its split. -/
def placeWave (w : Wave) (s : State) : Option State :=
  if !roomForWave s w then none
  else (subSpot s w.die w.core w.sub w.width w.regs).map fun p =>
    let ws := (allWaves s).filter (Wave.onSub w.die w.core w.sub)
    let free := (List.range (if w.isL then 8 else 32)).filter fun e => !(ws.any fun x => x.hasEntry e)
    let slot := if p.1.contains w.slot then w.slot else p.1.headD 0
    let v := renumber free s.nextId { w with slot := slot, qbase := p.2.1, rbase := p.2.2.1 }
    { s with
      bg := v :: s.bg, nextId := s.nextId + w.splits.length,
      posted := s.posted.map fun p => if p.uid == w.uid && !p.err then { p with entry := newEntry free w p.entry } else p }
/-- Places waves, all or none. -/
def placeWaves : List Wave → State → Option State
  | [], s => some s
  | w :: t, s => (placeWave w s).bind (placeWaves t)
/-- A team's window names its place again; none while its entries cannot be rewritten yet (R405, R430). -/
def restoreWindow (t : Team) (s : State) : Option State :=
  match mapWindow true t { s with teams := s.teams ++ [t] } with
  | (_, .wait) => none
  | (s, _) => some s
/-- Places a team: its stash is read back where it was written out, and its window names its place (R430). -/
def placeTeam (i : Image) (t : Team) (s : State) : Option State :=
  match i.outs.find? fun o => o.1 == t.id with
  | none => restoreWindow t s
  | some o => (stashSpot s t.die t.core t.size).bind fun off =>
    let t := { t with off := off }
    restoreWindow t (memGive s (stashKey t.die t.core off) t.size o.2)
/-- Places teams, all or none. -/
def placeTeams (i : Image) : List Team → State → Option State
  | [], s => some s
  | t :: r, s => (placeTeam i t s).bind (placeTeams i r)
/-- Has a core's Courier room for the copies of an image, in its queue and among those it works on (R327)? -/
def courierTakes (i : Image) (s : State) : Bool :=
  (waitsIn s.tags i.die i.core == 0 || waitsIn s.tags i.die i.core + waitsIn i.tags i.die i.core ≤ 32) &&
    runsIn s.tags i.die i.core + runsIn i.tags i.die i.core ≤ 8
/-- Places an image back on its core once the core has room and its tags are free (R322, R327, R431); the places of its copies
are found again when every image is back (R349). -/
def placeImage (i : Image) (s : State) : Option State :=
  if (i.tags.any fun t => s.tags.any fun x => x.die == t.die && x.core == t.core && x.tag == t.tag) || !courierTakes i s ||
      (!i.shadow && slotOwned s i.ctx i.die i.core) then none
  else
    let s' := { s with images := s.images.filter fun x => !(x.ctx == i.ctx && x.die == i.die && x.core == i.core) }
    (placeTeams i i.teams s').bind fun s' => (placeWaves i.waves s').map fun s' =>
      let s' := { s' with tags := s'.tags ++ i.tags.map fun t => { t with copy := t.copy.map fun c => { c with stale := true } } }
      imageWords i.ctx i.die i.core false s'

/-- Does the image in a save slot fit the device and its context (R431)? Of an image whose bytes are not those that were saved
the manual says nothing: system software shall put them back. -/
def slotFits (s : State) (c die core : Nat) : Bool :=
  match saveSlot s c die core with
  | some k => cohNat s (k + 2 ^ 20) 8 ≤ 7 * 2 ^ 20 - 64 &&
    cohNat s (k + 2 ^ 20 + 8) 4 == Config.stepTag && cohNat s (k + 2 ^ 20 + 12) 4 == c
  | none => false
/-- Do all the images of a context in the save area fit, the dies' own among them? -/
def imagesFit (s : State) (c : Nat) : Bool :=
  (s.images.all fun i => i.ctx != c || i.shadow || slotFits s c i.die i.core) && (imageDies s c).all fun d => slotFits s c d 20
/-- Places the images of a context that it can. -/
def placeImages (c : Nat) (s : State) : State :=
  (s.images.filter fun i => i.ctx == c).foldl (fun s i => match placeImage i s with
    | some t => t
    | none => (placeImage i (makeRoom c i.die i.core s)).getD s) s
/-- The places of a restored copy are found, its walks made at once: it owns its unwritten bytes there again (R349). The answer
says whether a page entry being rewritten is waited for; a fault stops the copy, as at its next chunk, and one that had stopped
stays so. -/
def restoreCopy (t : Tag) (c : Copy) (s : State) : State × Bool :=
  let walk (want : Want) (s : State) (d : Nat × Nat) : State :=
    match translate s t.die c.ctx d.1 d.2 want with | .miss => walkFill 4 s t.die c.ctx d.1 want | _ => s
  let s := (destPieces c).foldl (walk { dstWant with sup := c.sup }) s
  let s := (c.sig.toList.map fun g => (g.1, 8)).foldl (walk { sigWant with sup := c.sup }) s
  let (s, busy) := refreshCopy t c s
  let stopped (x : Tag) : Tag :=
    if t.state == .fault then { x with state := .fault, fault := t.fault, copy := x.copy.map fun d => { d with stale := true } } else x
  (onTag t.die t.core t.tag stopped s, busy.isSome)
/-- The same of every copy of a context. -/
def restoreCopies (c : Nat) (s : State) : State × Bool :=
  s.tags.foldl (fun (r : State × Bool) t => match t.copy with
    | some d => if d.ctx == c && d.stale then (let q := restoreCopy t d r.1; (q.1, r.2 || q.2)) else r
    | none => r) (s, false)
/-- Is a reply still owed to a context (R432)? -/
def replyOwed (s : State) (c : Nat) : Bool := s.pend.any fun p => p.ctx == c && p.ndst != 0 && (isAccess p.kind || p.kind == .texture)
/-- The next step of a context in RESTORING. -/
def restoreStep (c : Nat) (s : State) : State :=
  if replyOwed s c then s
  else
    let s := placeImages c s
    if (s.images.any fun i => i.ctx == c) || (ctxDies s c).any (slotOwned s c · 20) then s
    else match restoreCopies c s with
      | (s, true) => s
      | (s, false) => runAgain c ((ctxDies s c).foldl (fun s d => imageWords c d 20 false s) s)

/-- After a thermal trip the dies lose power once no halt or swap is under way (R494; Table 17.8): waves, stashes, memory and
translations are lost, and contexts stay HALTED. -/
def powerOff (s : State) : State :=
  if s.plat.powered || s.ctxs.any fun x => x.state == .halting || x.state == .swapping || x.state == .restoring then s
  else
    { s with
      wave := Wave.noWave, bg := [], acc := false, mem := s.mem.filter fun x => 2 ^ 70 ≤ x.1,
      raw := s.raw.filter fun r => 2 ^ 70 ≤ r.lo, owed := [], pend := [], teams := [], grids := [],
      bins := [], tags := [], images := [], posted := [], copies := [],
      ctxs := s.ctxs.map fun x => { x with state := .halted, acks := [], fatal := none, late := [], vers := [] },
      plat := { s.plat with posts := [] },
      dies := s.dies.map fun d => { d with tlb := [], raster := [], rr := [] } }

/-! ### The arms -/

/-- Does a copy own bytes of the records of an engine's save slot, so that its record waits (R127)? -/
def recordOwned (s : State) (x : Ctx) (e : Engine) : Bool :=
  writesRecords s x && (saveSlot s x.id (engAt e).2.1 (engAt e).2.2.1).any fun k => copyOwns s k (2 ^ 20)
/-- ENGINE_STOP_ACK (R425). -/
def execEngineStopAck (ctx : Nat) (eng : Engine) (s : State) : Out :=
  match findCtx s ctx with
  | some x =>
    .next (if x.state == .halting && (ctxEngines s ctx).contains eng && !x.acks.contains eng && engineStopped s ctx eng &&
        !recordOwned s x eng then
      ackEngine x eng s else s)
  | none => .next s
/-- HALT_COMPLETE (R424, R429): every engine has acknowledged; a pre-empted context is then swapped out. -/
def execHaltComplete (ctx : Nat) (s : State) : Out :=
  match findCtx s ctx with
  | some x =>
    if x.state == .halting && (ctxEngines s ctx).all fun e => x.acks.contains e then
      .next (powerOff (onCtx ctx (fun y => { y with state := if y.reason == .preempt then .swapping else .halted }) s))
    else if x.state == .swapping then .next (if swapWaits s x then s else powerOff (swapCtx x s))
    else .next s
  | none => .next s
/-- OWED_REPLY_WRITE (R432): a reply of a wave that is halted or lies in an image. -/
def execOwedReplyWrite (id : Nat) (s : State) : Out :=
  match findPending s id with
  | some p =>
    if ctxRuns s p.ctx then .next s
    else if isLoad p.kind then
      let quad := ((p.lanes.head?.map (·.lane)).getD 0) / 4
      .next (if quadReady s p quad then performLoad p quad s else s)
    else .next (if allReady s p && p.ndst != 0 then performAll p s else s)
  | none => .next s
/-- HALT (R424): a command of CCTL. -/
def execHalt (ctx : Nat) (s : State) : Out := .next (raiseHalt ctx .host none s)
/-- PREEMPT (R429). -/
def execPreempt (ctx : Nat) (inc : Option Nat) (s : State) : Out :=
  match findCtx s ctx with
  | some x =>
    .next (if x.state == .running && descOwned s ctx then { s with inputs := .event (.preempt ctx inc) :: s.inputs }
      else if x.state == .running then onCtx ctx (fun y => { y with inc := inc }) (raiseHalt ctx .preempt none (reloadDesc ctx s)) else s)
  | none => .next s
/-- RESUME (R428): only a HALTED context. -/
def execResume (ctx : Nat) (s : State) : Out :=
  match findCtx s ctx with
  | some x => .next (if x.state == .halted && s.plat.powered then resumeCtx x s else s)
  | none => .next s
/-- The wave that WSEL names, if it is the context's (Table 14.12). -/
def selWave (s : State) (wsel : BitVec 18) (ctx : Nat) : Option Wave :=
  let x := wsel.toNat
  (allWaves s).find? fun w => w.onSub (bitsOf x 17 12) (bitsOf x 11 7) (bitsOf x 6 4) && w.slot == bitsOf x 3 0 && w.ctx == ctx
/-- STOPWAVE (R179): every split of the wave stops, and a stop record is written; the manual names no halt reason for it. -/
def execStopwave (wsel : BitVec 18) (ctx : Nat) (s : State) : Out :=
  match selWave s wsel ctx, findCtx s ctx with
  | some w, some x =>
    let s := onWave w.uid (Wave.mapSplits fun y => { y with stop := true }) s
    let e := Engine.sequencer w.die w.core w.sub
    let w := (findWave w.uid s).getD w
    let reason := (Config.undefWord s.freeCtr 32 0).toNat % 256
    let r := stopRecord s { x with fatal := none, reason := .none, haltAt := s.clock } reason e
      (pad64 (waveImage s { x with fatal := none } w))
    .next (writeRecord s ctx e r)
  | _, _ => .next s
/-- RESUMEWAVE (R179). -/
def execResumewave (wsel : BitVec 18) (ctx : Nat) (s : State) : Out :=
  match selWave s wsel ctx with
  | some w => .next (onWave w.uid (Wave.mapSplits fun y => { y with stop := false }) s)
  | none => .next s
/-- RESTORE (R431): of a context IN SAVE AREA; one in RESTORING goes on as its cores get room. -/
def execRestore (ctx : Nat) (s : State) : Out :=
  match findCtx s ctx with
  | some x =>
    if x.state == .inSave && s.plat.powered then
      if descOwned s ctx then .next { s with inputs := .event (.restore ctx) :: s.inputs }
      else if imagesFit s ctx then .next (restoreStep ctx (reloadDesc ctx (onCtx ctx (fun y => { y with state := .restoring }) s)))
      else .next (logEvent (Config.undefWord s.freeCtr 33 0).toNat 0 0 ctx 0 s)
    else .next (if x.state == .restoring then restoreStep ctx s else s)
  | none => .next s

end Sys2Proof.Machine
end

