-- ==== Sys2Proof/Machine/Migrate.lean ====
section
/-! DEFINITION. MIGRATE, the migration queue, state maps and moves between classes of core (R447 to R454). -/
namespace Sys2Proof.Machine
open Sys2Proof

/-! ### Parking (R449, R450) -/

/-- The header of an equivalence entry for a class of core. -/
def Equiv.own (isL : Bool) (e : Equiv) : PC := if isL then e.l else e.d
/-- The equivalence entries of a wave's version. -/
def waveEquivs (s : State) (w : Wave) : List Equiv :=
  match findVer s w.ctx w.ver with
  | some v => v.equivs
  | none => []
/-- The entry whose header for the wave's class is an address. -/
def equivAt (s : State) (w : Wave) (pc : PC) : Option Equiv := (waveEquivs s w).find? fun e => e.own w.isL == pc
/-- Does the wave hold state of Porter or of the matrix unit (R318, R371)? -/
def holdsEngine (w : Wave) : Bool :=
  !w.tiles.isEmpty || !w.mstreams.isEmpty || (w.thread.any fun t => !t.done) || !w.queues.isEmpty
/-- Teams with a parked wave on a die: the entries of its migration queue. -/
def parkedTeams (s : State) (die : Nat) : List Nat :=
  ((allWaves s).filterMap fun w => if w.die == die && w.parked.isSome then some w.team else none).eraseDups
/-- A wait limit in microseconds as D sub-core cycles at the nominal rate. -/
def limitCycles (x : Nat) : Option Nat := if x == 0xFFFFFFFF then none else some (3000 * x)
/-- The wave in focus parks; a limit of zero ends with its cycle (R453). -/
def park (d : Nat) (toL : Bool) (limit : Nat) (next : PC) (s : State) : State :=
  onFocus (fun w =>
    { w with cur := { w.cur.goto w.isL next with state := .migq, cur := false },
             parked := some { d := d, toL := toL, limit := limitCycles limit, since := s.cycle, next := next } })
    { s with agenda := s.agenda ++ if limitCycles limit == some 0 then [.event (.migrateLimitExpiry s.wave.uid)] else [] }

/-- MIGRATE after its checks. -/
def migrateR (f : RF) (s : State) : Eff :=
  let w := s.wave
  let m := w.cur.mask
  let toL := f.md == 0#2
  let next := match w.cur.blk with | some b => b.endPc w.isL | none => w.cur.pc + 1
  let refuse (sub : Nat) : Eff := .trap { cause := 0x0C, sub := sub, mask := m }
  if w.cur.h then .trap { cause := 1, sub := 2, mask := m }
  else if toL == w.isL then .next (wrS s f.d.toNat 0)
  else match fetchBlock s w.isL false next with
    | (s, .miss va) => .hold [walkFor w.die w.ctx va (fetchWant s false)]
    | (_, .waits) => .hold []
    | (s, .fault c b a) =>
      .trap { cause := c, sub := b, mask := m, addr := addrW a, word0 := some (freeW64 s 16), word1 := some (freeW64 s 17),
              pc := some next, hdr := true }
    | (_, .bad x) => .trap { cause := 1, sub := 2, mask := m, word0 := some x, word1 := some 0, pc := some next, hdr := true }
    | (s, .ok b) => match equivAt s w next with
      | none => refuse 1
      | some e =>
        if !b.eqv || !bitAt e.flags (if toL then 0 else 1) then refuse 1
        else if toL && 16 < w.width then refuse 3
        else if holdsEngine w then refuse 2
        else if w.cur.rj.any fun r => (equivAt s w r.addr).isNone then refuse 4
        else if !(parkedTeams s w.die).contains w.team && 16 ≤ (parkedTeams s w.die).length then .hold []
        else .jump (park f.d.toNat toL (src32 s f.a 0) next s)

/-! ### State maps (R447) -/

/-- The map of an entry: SPOFF, SPSTRIDE and its entries (Tables 15.4, 15.5). -/
def mapOf (v : Version) (e : Equiv) : Nat × Nat × List MapEntry :=
  let rd (off n : Nat) : Nat := v.num (e.map + off) n
  (rd 4 4, rd 8 4, (List.range (rd 0 2)).map fun (i : Nat) => mapEntryOf (rd (16 + 8 * i) 8))
/-- The place of lane 0 of a spill slot. -/
def spillKey (t : Team) (w : Wave) (off stride x : Nat) : Nat := stashKey t.die t.core (t.off + off + stride * w.waveId + 64 * x)

/-- A wave under a map: registers first, then what goes to the stash. -/
structure Mapped where
  v : Store W32
  undef : Store Mask
  s : Store W32
  k : Store W64
  h : Store W32
  spills : List (Nat × List Byte)
deriving DecidableEq, Repr, Inhabited

/-- The value in a lane of a v-register or slot of the source side, read in the state `s` with the wave in focus; its
undefined lanes stay undefined. -/
def mapSrc (s : State) (t : Team) (off stride : Nat) (slot : Bool) (x l : Nat) : W32 × Bool :=
  if slot then (BitVec.ofNat 32 (cohNat s (spillKey t s.wave off stride x + 4 * l) 4), false)
  else (rdV s x l, Mask.has (undefLanes s x) l)
/-- One location of a map entry: its source is read in `s`, the wave before the map. -/
def mapOne (s : State) (t : Team) (off stride : Nat) (toL : Bool) (e : MapEntry) (m : Mapped) (i : Nat) : Mapped :=
  let src := (if toL then e.d else e.l) + i
  let dst := (if toL then e.l else e.d) + i
  let w := s.wave
  match e.kind with
  | 0 =>
    let vs := (List.range w.width).map fun (l : Nat) => (l, mapSrc s t off stride (e.slot && !toL) src l)
    if e.slot && toL then
      { m with spills := m.spills ++ [(spillKey t w off stride dst, vs.flatMap fun x => bytesOf 4 x.2.1.toNat)] }
    else
      { m with
        v := vs.foldl (fun v x => Store.set 0 v (64 * dst + x.1) x.2.1) m.v,
        undef := Store.set 0 m.undef dst (Mask.ofLanes (vs.filterMap fun x => if x.2.2 then some x.1 else none)) }
  | 1 => { m with s := Store.set 0 m.s dst (Store.get 0 w.s src) }
  | 2 => { m with k := Store.set 0 m.k dst (Store.get 0 w.k src) }
  | _ => { m with h := (List.range 8).foldl (fun h j => Store.set 0 h (8 * dst + j) (Store.get 0 w.h (8 * src + j))) m.h }
/-- A map applied to the wave in focus, which has `regs` v-registers on the destination side. -/
def applyMap (s : State) (t : Team) (toL : Bool) (regs : Nat) (mp : Nat × Nat × List MapEntry) : Mapped :=
  let w := s.wave
  let m : Mapped :=
    { v := [], undef := (List.range regs).foldl (fun u n => Store.set 0 u n w.all) [], s := w.s, k := w.k, h := w.h, spills := [] }
  mp.2.2.foldl (fun m e => (List.range e.n).foldl (mapOne s t mp.1 mp.2.1 toL e) m) m

/-! ### Moves (R450 to R452) -/

/-- The waves of a team. -/
def teamWaves (s : State) (t : Nat) : List Wave := sortBy (fun a b => a.waveId ≤ b.waveId) ((allWaves s).filter fun w => w.team == t)
/-- Those with a lane that has not exited. -/
def teamLive (s : State) (t : Nat) : List Wave := (teamWaves s t).filter fun w => w.liveLanes != 0#64
/-- The class a team is ready to move to (R450): a wave whose lanes have all exited does not count. -/
def readyToMove (s : State) (t : Team) : Option Bool :=
  let ws := teamLive s t.id
  match ws.head?.bind (·.parked) with
  | none => none
  | some p =>
    if ctxRuns s t.ctx && ws.all (fun w => (w.parked.any fun x => x.toL == p.toL) && w.splits.all fun x => !x.stop) then some p.toL
    else none
/-- When a team's last wave parked. -/
def lastParked (s : State) (t : Team) : Nat :=
  (teamLive s t.id).foldl (fun n w => max n ((w.parked.map (·.since)).getD 0)) 0
/-- The effective priority of a team. -/
def teamPri (s : State) (t : Team) : Nat := ((findGrid s t.grid).map (gridPri s)).getD 0
/-- Steps 1 and 4 of R452: nothing is owed to the team, its splits' fixed-latency results are written (R54), no access to its
stash that was translated before is under way (R434), its own or another agent's, no tag is BUSY or FAULT, and its exited waves
hold nothing more. -/
def teamQuiet (s : State) (t : Team) : Bool :=
  let b := stashKey t.die t.core t.off
  let meets (k n : Nat) : Bool := rangesMeet k n b t.size
  !(s.pend.any fun p => p.team == t.id || p.lanes.any fun a => meets a.key (max 1 (accSize p.kind))) &&
  !(s.tags.any fun x => x.state == .busy && x.copy.any fun c =>
      !c.stale && ((c.dest.any fun r => meets r.1 r.2) || c.sig.any fun g => meets g.2 8)) &&
  !(s.owed.any fun o => o.key.any fun k => meets k o.op.size) &&
  !(s.dies.any fun d => d.raster.any fun r => r.statKey.any fun k => meets k 64) &&
  ((teamWaves s t.id).all fun w => (w.splits.all fun x => x.written s.cycle) && (w.liveLanes != 0#64 || releasable (focusWave w.uid s))) &&
  (teamTags s t).all fun x => x.state == .set

/-- A wave moves to a core of the other class: the map of its point, its entry at the paired header (step 5). The entry keeps its
place in the order of creation, which gives AGE. -/
def moveWave (toL : Bool) (t : Team) (regs : Nat) (w : Wave) (s : State) : Option State :=
  match w.parked with
  | none => none
  | some p => match equivAt s w p.next, findVer s w.ctx w.ver with
    | some e, some ver =>
      let subs := (List.range (if toL then 2 else 8)).filterMap fun (b : Nat) =>
        (subSpot s t.die t.core b w.width regs).map fun x => (b, x)
      if subs.isEmpty then none
      else
        let spot := subs.getD (choose s 12 subs.length) (0, [], 0, 0, 0)
        let m := applyMap (focusWave w.uid s) t toL regs (mapOf ver e)
        let pair (x : PC) : PC := ((equivAt s w x).map (Equiv.own toL)).getD x
        let native := !toL && ver.native
        let c : Split :=
          { w.cur with
            idx := spot.2.2.2.2, state := .ready, pc := e.own toL, blk := none, hazards := [], fused := false,
            rj := w.cur.rj.map fun r => { r with addr := pair r.addr }, readyCount := 0, missCount := 0,
            nextIssue := max w.cur.nextIssue (s.cycle + 1) }
        let v : Wave :=
          { w with
            core := t.core, sub := spot.1, slot := spot.2.1.getD (choose s 13 spot.2.1.length) 0, regs := regs, qbase := spot.2.2.1,
            rbase := spot.2.2.2.1, v := m.v, undef := m.undef, s := Store.set 0 m.s p.d 1, k := m.k, h := m.h, cur := c,
            others := [], parked := none, mode := (w.mode &&& ~~~0x20#32) ||| (if native then 0x20#32 else 0) }
        let s := m.spills.foldl (fun s x => writeHome s x.1 x.2) s
        some (onWave w.uid (fun _ => v) s)
    | _, _ => none
/-- Moves waves, all or none. -/
def moveWaves (toL : Bool) (t : Team) (regs : Nat) : List Wave → State → Option State
  | [], s => some s
  | w :: r, s => (moveWave toL t regs w s).bind (moveWaves toL t regs r)
/-- A place after a move of `n` bytes from one place to another. -/
def movedKey (old new n k : Nat) : Nat := if old ≤ k && k < old + n then k - old + new else k
/-- Runs of places after such a move, in their order. -/
def movedRuns (old new n : Nat) (rs : List (Nat × Nat)) : List (Nat × Nat) :=
  rs.flatMap fun r =>
    let a := max r.1 old
    let b := min (r.1 + r.2) (old + n)
    if a < b then [(r.1, a - r.1), (a - old + new, b - a), (b, r.1 + r.2 - b)].filter fun x => x.2 != 0 else [r]
/-- What names places in a team's stash follows a move: the destinations of copies that have stopped at a fault, which own their
unwritten bytes there (R127), and the places that WAITMEM watches. -/
def movePlaces (old new n : Nat) (s : State) : State :=
  let watch (a : LaneAcc) : LaneAcc := { a with key := movedKey old new n a.key }
  mapWaves (Wave.mapSplits fun x => { x with waitmem := x.waitmem.map fun m => { m with lanes := m.lanes.map watch } })
    { s with tags := s.tags.map fun t => { t with copy := t.copy.map fun c =>
        { c with dest := movedRuns old new n c.dest, owned := movedRuns old new n c.owned } } }
/-- Moves a team to a core (R451, R452); none where it does not fit or its window cannot be rewritten. Its exited waves are
released. -/
def moveTeam (toL : Bool) (t : Team) (core : Nat) (s : State) : Option State :=
  if !mayUse s t.ctx t.die core ||
    (teamTags s t).any fun x => s.tags.any fun y => y.die == t.die && y.core == core && y.tag == x.tag then none
  else match stashSpot s t.die core t.size, findGrid s t.grid with
    | some off, some g =>
      let s := t.dirty.foldl (fun s d => writeBackLine t.id d s) s
      let t := (findTeam s t.id).getD t
      let t' := { t with core := core, off := off }
      let old := stashKey t.die t.core t.off
      let new := stashKey t.die core off
      let s := movePlaces old new t.size (memZero (memGive s new t.size (memTake s old t.size)) old t.size)
      let s := removeWaves (fun w => w.live && w.team == t.id && w.liveLanes == 0#64) s
      let s := { s with tags := s.tags.map fun x => if x.team == some t.id then { x with core := core } else x }
      match mapWindow true t' (onTeam t.id (fun _ => t') s) with
      | (s, .ok) => moveWaves toL t' (if toL then g.regsL else g.regs) (teamLive s t.id) s
      | _ => none
    | _, _ => none
/-- The moves of a ready team to each core where it fits (R451). -/
def fitsOf (s : State) (t : Team) : List State :=
  match readyToMove s t with
  | some toL => (coresOf toL).filterMap fun k => moveTeam toL t k s
  | none => []
/-- Those that may commit now. -/
def movesOf (s : State) (t : Team) : List State := if teamQuiet s t then fitsOf s t else []
/-- Is team `a` placed before team `b` (R451)? -/
def moveBefore (s : State) (a b : Team) : Bool :=
  if teamPri s a != teamPri s b then teamPri s b < teamPri s a
  else if lastParked s a != lastParked s b then lastParked s a < lastParked s b else a.id < b.id

/-! ### What is placed next (R388, R389, R451) -/

/-- The class of core that an item goes to. -/
def Item.isL (s : State) : Item → Bool
  | .team g _ => g.lcore
  | .bin b => (findGrid s b.child).any (·.lcore)
/-- Does a team that is ready to move come before an item of a priority on a die (R451): one of the same priority that waits for
the same class of core, or one of a higher priority that fits? -/
def readyHolds (s : State) (die pri : Nat) (i : Item) : Bool :=
  s.teams.any fun t => t.die == die && match readyToMove s t with
    | some toL => (teamPri s t == pri && toL == i.isL s) || (pri < teamPri s t && !(fitsOf s t).isEmpty)
    | none => false
/-- Is it a cooperative grid's turn on a die: does nothing that waits there come before it (R388)? -/
def turnOf (s : State) (die : Nat) (g : Grid) : List Nat → Bool
  | [] => false
  | p :: t => match firstItem s die p with
    | none => turnOf s die g t
    | some i =>
      let mine := match i with | .team h _ => h.uid == g.uid | .bin _ => false
      let held := readyHolds s die p i
      if mine then !held else (held || !(fitItem s die i).isSome) && !coopWaits s die p && p != gridPri s g && turnOf s die g t
/-- Places an item; none where it does not fit. A cooperative grid's teams wait for its turn on each of its dies. -/
def placeItem (s : State) (die : Nat) (i : Item) : Option State :=
  match i with
  | .team g _ =>
    if g.coop && !(g.unplaced.all fun u => u.2 == die || turnOf s u.2 g priorities) then none else fitItem s die i
  | .bin _ => fitItem s die i
/-- The next item that fits, by priority; a cooperative grid that waits holds the lower priorities (R389), and a team that is
ready to move goes first (R451). -/
def placeNext (s : State) (die : Nat) : List Nat → Option (Item × State)
  | [] => none
  | p :: t => match firstItem s die p with
    | none => placeNext s die t
    | some i => match if readyHolds s die p i then none else placeItem s die i with
      | some s' => some (i, s')
      | none => if coopWaits s die p then none else placeNext s die t
/-- The move of a team that commits now, the whole of it; none while a team or an item that R451 places first could go. -/
def commitMove (t : Team) (s : State) : Option State :=
  let moves := movesOf s t
  if moves.isEmpty || (s.teams.any fun x => x.die == t.die && moveBefore s x t && !(fitsOf s x).isEmpty) ||
      (placeNext s t.die (priorities.filter fun p => teamPri s t < p)).isSome then none
  else moves[choose s 11 moves.length]?

/-! ### The arms -/

/-- MIGRATE (R449). -/
def execMigrate (f : RF) (s : State) : Out := issue (.migrate f) s (migrateR f)
/-- MIGRATION_MOVE (R451, R452): the whole move at its commit. -/
def execMigrationMove (team : Nat) (s : State) : Out :=
  .next (((findTeam s team).bind fun t => commitMove t s).getD s)
/-- A parked wave goes on on its own core (R453), behind what it did before it parked (R133). -/
def resumeParked (s : State) (w : Wave) (p : Parked) : Wave :=
  afterStop s { w with
    parked := none, s := Store.set 0 w.s p.d 0,
    cur := { w.cur.goto w.isL p.next with state := .ready, nextIssue := max w.cur.nextIssue (s.cycle + 1) } }
/-- MIGRATE_LIMIT_EXPIRY (R453): the wave goes on, unless its team's move commits in this cycle (Table 15.6). -/
def execMigrateLimitExpiry (uid : Nat) (s : State) : Out :=
  match findWave uid s with
  | some w => match w.parked with
    | some p =>
      if p.limit != some 0 || !((findCtx s w.ctx).any fun x => x.state == .running) then .next s
      else .next (((findTeam s w.team).bind fun t => commitMove t s).getD (onWave uid (fun w => resumeParked s w p) s))
    | none => .next s
  | none => .next s
/-- TEAM_PLACEMENT (R388, R389). -/
def execTeamPlacement (die : Nat) (s : State) : Out :=
  match placeNext s die priorities with
  | some (.team _ _, t) => .next t
  | _ => .next s
/-- BIN_WAVE_PLACEMENT (R398, R399). -/
def execBinWavePlacement (die : Nat) (s : State) : Out :=
  match placeNext s die priorities with
  | some (.bin _, t) => .next t
  | _ => .next s

end Sys2Proof.Machine
end

