-- ==== Sys2Proof/Machine/Raster.lean ====
section
/-! DEFINITION. The raster engine: coverage (R455 to R460), RAST (R461, R462), its phases (R463, R464), fragment records
(R465) and completion (R466, R467). -/
namespace Sys2Proof.Machine
open Sys2Proof

/-! ### Flattening (R455 to R457) -/

/-- A point in units of 1/256 pixel. -/
abbrev Pt := Int × Int
/-- A point the engine accepts (R455). -/
def Pt.ok (p : Pt) : Bool := p.1.natAbs < 2 ^ 24 && p.2.natAbs < 2 ^ 24
/-- a / b to the nearest integer, ties to even; b is positive. -/
def rneDiv (a b : Int) : Int :=
  let q := a / b
  let r := a % b
  if b < 2 * r || (2 * r == b && q % 2 == 1) then q + 1 else q
/-- dd of R456. -/
def secondDiff : List Int → Nat
  | a :: b :: c :: t => max (a - 2 * b + c).natAbs (secondDiff (b :: c :: t))
  | _ => 0
/-- Σ binom(d, k) (n - i)^(d - k) i^k x(k). -/
def bernstein (n i : Nat) (xs : List Int) : Int :=
  let d := xs.length - 1
  ((List.range xs.length).zip xs).foldl (fun a p =>
    let c : Int := ((if p.1 == 0 || p.1 == d then 1 else d) * (n - i) ^ (d - p.1) * i ^ p.1 : Nat)
    a + c * p.2) 0
/-- The chain of a curve and whether it is capped (R456). -/
def chainOf (ps : List Pt) : List Pt × Bool :=
  let dd := max (secondDiff (ps.map (·.1))) (secondDiff (ps.map (·.2)))
  let d := ps.length - 1
  let fits (n : Nat) : Bool := (if d == 3 then 3 * dd else dd) ≤ 64 * 4 ^ n
  let n := 2 ^ (((List.range 7).find? fits).getD 6)
  ((List.range (n + 1)).map fun i =>
    (rneDiv (bernstein n i (ps.map (·.1))) ((n : Int) ^ d), rneDiv (bernstein n i (ps.map (·.2))) ((n : Int) ^ d)), !fits 6)
/-- The chords of a chain of points. -/
def chordsOf : List Pt → List (Pt × Pt)
  | a :: b :: t => (a, b) :: chordsOf (b :: t)
  | _ => []

/-- The multiples of 256 strictly between two integers. -/
def gridBetween (a b : Int) : List Int :=
  let lo := min a b / 256 + 1
  let hi := (max a b + 255) / 256
  (List.range (hi - lo).toNat).map fun (k : Nat) => 256 * (lo + k)
/-- Drops the entries with the key of the one kept before, `k` at first. -/
def dropAfter : Nat → List (Nat × Pt) → List (Nat × Pt)
  | _, [] => []
  | k, b :: t => if k == b.1 then dropAfter k t else b :: dropAfter b.1 t
/-- Drops the entries with the key of the one before. -/
def dropSame : List (Nat × Pt) → List (Nat × Pt)
  | [] => []
  | a :: t => a :: dropAfter a.1 t
/-- A chord cut at every cell boundary (R457): its points in order. -/
def cutPoints (p q : Pt) : List Pt :=
  let dx := q.1 - p.1
  let dy := q.2 - p.2
  let sx : Int := if dx < 0 then -1 else 1
  let sy : Int := if dy < 0 then -1 else 1
  let xs := (gridBetween p.1 q.1).map fun x =>
    ((x - p.1).natAbs * max 1 dy.natAbs, (x, rneDiv (sx * (p.2 * dx + (x - p.1) * dy)) (sx * dx)))
  let ys := (gridBetween p.2 q.2).map fun y =>
    ((y - p.2).natAbs * max 1 dx.natAbs, (rneDiv (sy * (p.1 * dy + (y - p.2) * dx)) (sy * dy), y))
  p :: (dropSame (sortBy (fun a b => a.1 ≤ b.1) (xs ++ ys))).map (·.2) ++ [q]
/-- What a piece adds to its cell (R457, R458); a piece of no length is none (R460). -/
def pieceCell (item : Nat) (a b : Pt) : Option Cell :=
  if a == b then none
  else
    let c := (a.1 + b.1) / 512
    let dy := b.2 - a.2
    some { item := item, c := c, r := (a.2 + b.2) / 512, area := dy * (512 - (a.1 - 256 * c) - (b.1 - 256 * c)), cover := 512 * dy }
/-- The cells of a chord's pieces. -/
def chordCells (item : Nat) (p q : Pt) : List Cell := (chordsOf (cutPoints p q)).filterMap fun s => pieceCell item s.1 s.2

/-! ### Contours (R463) -/

/-- A contour being drawn: its points to come, its current point and start, and whether it has a line not yet closed. -/
structure Draw where
  pts : List Pt
  cur : Pt
  start : Pt
  line : Bool
  out : List (Pt × Pt)
  flat : Bool
deriving DecidableEq, Repr, Inhabited

/-- The closing line of a contour that has a line. -/
def Draw.close (d : Draw) : Draw := if d.line then { d with out := d.out ++ [(d.cur, d.start)], cur := d.start, line := false } else d
/-- One verb. A contour has one closing line, at its end: a CLOSE with verbs of its contour behind it draws none of its own (R463,
assumption 33). -/
def Draw.verb (d : Draw) (v : Nat) : Draw :=
  let take (n : Nat) : List Pt := d.pts.take n
  match v with
  | 0 => (let d := d.close; let p := (take 1).headD (0, 0); { d with pts := d.pts.drop 1, cur := p, start := p })
  | 4 => d
  | _ =>
    let ps := d.cur :: take v
    let (chain, flat) := if v == 1 then (ps, false) else chainOf ps
    { d with pts := d.pts.drop v, cur := ps.getLastD d.cur, line := true, out := d.out ++ chordsOf chain, flat := d.flat || flat }
/-- The chords of a path, and whether a curve was capped. -/
def pathChords (verbs : List Nat) (pts : List Pt) : List (Pt × Pt) × Bool :=
  let d : Draw := { pts := pts, cur := (0, 0), start := (0, 0), line := false, out := [], flat := false }
  let d := (verbs.foldl Draw.verb d).close
  (d.out, d.flat)
/-- Points taken by a verb. -/
def verbPoints (v : Nat) : Nat := match v with | 0 => 1 | 1 => 1 | 2 => 2 | 3 => 3 | _ => 0

/-! ### Phase 1 (R463, R464) -/

/-- A read of the engine: bytes, a fault, or a wait. -/
inductive RastGot where
  | bytes (b : List Byte)
  | fault (cause addr : Nat)
  | waits
deriving DecidableEq, Repr, Inhabited

/-- An access of a batch meets a peer that cannot be reached (R490). -/
def batchLost (die : Nat) (b : Batch) (va key : Nat) (s : State) : State :=
  routeLost die b.ctx b.uid b.strict 0 va (((findPending s b.id).map (·.pc)).getD 0) key s
/-- Reads the pieces of a range, none of which crosses a page; first touches are served (R420). -/
def rastPieces (die : Nat) (b : Batch) : List (Nat × Nat) → State → State × RastGot
  | [], s => (s, .bytes [])
  | (a, n) :: t, s =>
    match reach s die b.ctx a n { rdWant with sup := b.sup } with
    | (s, .ok k) =>
      let s := recallBytes k n (batchLost die b a k s)
      match rastPieces die b t s with
      | (u, .bytes b) => (u, .bytes (cohRead s k n ++ b))
      | r => r
    | (s, .fault k _ x) => (s, .fault k x)
    | (s, .miss) => (s, .waits)
/-- Reads a range. -/
def rastRead (die : Nat) (b : Batch) (a n : Nat) (s : State) : State × RastGot := rastPieces die b (pagePieces a n) s

/-- A point of a byte list. -/
def pointAt (b : List Byte) (o : Nat) : Pt := (sextN (bytesAt b o 4) 32, sextN (bytesAt b (o + 4) 4) 32)
/-- What an item is: chords, a bad item, a fault, or a wait. -/
inductive ItemGot where
  | chords (l : List (Pt × Pt)) (flat : Bool)
  | bad
  | fault (cause addr : Nat)
  | waits
deriving DecidableEq, Repr, Inhabited

/-- The points of a path whose verbs are right. -/
def pathPoints (die : Nat) (b : Batch) (pts : Nat) (verbs : List Nat) (s : State) : State × ItemGot :=
  let n := (verbs.map verbPoints).foldl (· + ·) 0
  match rastRead die b pts (8 * n) s with
  | (s, .bytes raw) =>
    let ps := (List.range n).map fun (i : Nat) => pointAt raw (8 * i)
    if ps.all Pt.ok then (let r := pathChords verbs ps; (s, .chords r.1 r.2)) else (s, .bad)
  | (s, .fault k a) => (s, .fault k a)
  | (s, .waits) => (s, .waits)
/-- An item's 32 bytes (Table 16.4). -/
def readItem (die : Nat) (b : Batch) (raw : List Byte) (s : State) : State × ItemGot :=
  if b.kind == 1 then
    let ps := [pointAt raw 0, pointAt raw 8, pointAt raw 16]
    if bytesAt raw 24 8 != 0 || !ps.all Pt.ok then (s, .bad) else (s, .chords (pathChords [0, 1, 1] ps).1 false)
  else
    let nverb := bytesAt raw 16 4
    if bytesAt raw 20 12 != 0 || nverb == 0 || 65535 < nverb || bytesAt raw 8 8 % 8 != 0 then (s, .bad)
    else match rastRead die b (bytesAt raw 0 8) nverb s with
      | (s, .bytes vb) =>
        let vs := vb.map BitVec.toNat
        if vs.headD 0 != 0 || vs.any (4 < ·) then (s, .bad) else pathPoints die b (bytesAt raw 8 8) vs s
      | (s, .fault k a) => (s, .fault k a)
      | (s, .waits) => (s, .waits)

/-- Are the first two chords of a triangle on one line? -/
def collinear : List (Pt × Pt) → Bool
  | (p, q) :: (_, r) :: _ => (q.1 - p.1) * (r.2 - q.2) == (q.2 - p.2) * (r.1 - q.1)
  | _ => false
/-- The cells of an item's pieces; those of a triangle with collinear vertices cancel exactly (Table 16.1). -/
def itemCells (kind item : Nat) (l : List (Pt × Pt)) : List Cell :=
  let cs := l.flatMap fun c => chordCells item c.1 c.2
  if kind == 1 && collinear l then cs.map fun c => { c with area := 0, cover := 0 } else cs
/-- Descriptor fields (Table 16.3). -/
def Batch.fld (b : Batch) (off n : Nat) : Nat := bytesAt b.bytes off n
/-- Items from `i` on, `n` of them: the batch with their pieces, or none where a read waits. -/
def readItems (die : Nat) : Nat → Nat → Batch → State → State × Option Batch
  | 0, _, b, s => (s, some b)
  | n + 1, i, b, s =>
    let stop (code cause addr : Nat) : Option Batch := some { b with phase := 2, code := code, cause := cause, faddr := addr, cells := [] }
    match rastRead die b (b.fld 8 8 + 32 * i) 32 s with
    | (s, .fault k a) => (s, stop 1 k a)
    | (s, .waits) => (s, none)
    | (s, .bytes raw) =>
      match readItem die b raw s with
      | (s, .fault k a) => (s, stop 1 k a)
      | (s, .waits) => (s, none)
      | (s, .bad) => readItems die n (i + 1) { b with bad := true, badItems := b.badItems + 1 } s
      | (s, .chords l flat) =>
        let b := { b with
          flat := b.flat || flat, items := b.items + 1, segs := b.segs + l.length, cells := b.cells ++ itemCells b.kind i l }
        if 262144 < b.cells.length then
          (s, some { b with phase := 2, code := 2, cells := [] })
        else readItems die n (i + 1) b s

/-- The tiles of phase 2: row by row, from the leftmost to the rightmost that holds a piece (R464). -/
def rastTiles (cs : List Cell) : List (Int × Int) :=
  let ts := (cs.map fun c => (c.c / 64, c.r / 64)).eraseDups
  let rows := sortBy (fun a b => a ≤ b) (ts.map (·.2)).eraseDups
  rows.flatMap fun r =>
    let xs := (ts.filter fun t => t.2 == r).map (·.1)
    let lo := xs.foldl min (xs.headD 0)
    let hi := xs.foldl max (xs.headD 0)
    (List.range (hi - lo + 1).toNat).map fun (k : Nat) => (lo + k, r)

/-! ### Phase 2 (R458, R459, R464, R465) -/

/-- a(i, j) of one item (R458). -/
def windingAt (cs : List Cell) (i j : Int) : Int :=
  sextN (wrapN (cs.foldl (fun a c =>
    if c.r != j then a else if c.c == i then a + c.area else if c.c < i then a + c.cover else a) 0) 24) 24
/-- The coverage under a rule (R459). -/
def coverage (rule : Nat) (a : Int) : Nat :=
  if rule == 0 then min a.natAbs 131072 else (let m := a.natAbs % 262144; if m ≤ 131072 then m else 262144 - m)
/-- Is a pixel in CLIP? -/
def Batch.inClip (b : Batch) (i j : Int) : Bool :=
  b.fld 0x18 2 ≤ i && i < b.fld 0x1C 2 && b.fld 0x1A 2 ≤ j && j < b.fld 0x1E 2
/-- The coverages of a quad's pixels for an item: 0 for a helper. -/
def Batch.quadCov (b : Batch) (cs : List Cell) (i j : Int) : List Nat :=
  [(i, j), (i + 1, j), (i, j + 1), (i + 1, j + 1)].map fun p =>
    if b.inClip p.1 p.2 then coverage b.rule (windingAt cs p.1 p.2) else 0
/-- The four records of an emission (R465). -/
def Batch.quadRecs (b : Batch) (item : Nat) (i j : Int) (cov : List Nat) : List (List W32) :=
  (([(i, j), (i + 1, j), (i, j + 1), (i + 1, j + 1)] : List Pt).zip cov).map fun p =>
    [BitVec.ofNat 32 (wrapN p.1.1 16 + 65536 * wrapN p.1.2 16), BitVec.ofNat 32 p.2, BitVec.ofNat 32 (b.fld 0x14 4 + item),
     BitVec.ofNat 32 (b.fld 0x20 4)]
/-- The quads of a tile that meet CLIP, row by row. -/
def Batch.tileQuads (b : Batch) (t : Int × Int) : List Pt :=
  (List.range 32).flatMap fun (y : Nat) => (List.range 32).filterMap fun (x : Nat) =>
    let i := 64 * t.1 + 2 * x
    let j := 64 * t.2 + 2 * y
    if b.inClip i j || b.inClip (i + 1) j || b.inClip i (j + 1) || b.inClip (i + 1) (j + 1) then some (i, j) else none
/-- A tile is accumulated: its quads are to be written, and its totals counted; a stop record leaves out what is not written yet
(R468). -/
def Batch.takeTile (b : Batch) (t : Int × Int) : Batch :=
  let row := b.cells.filter fun c => c.r / 64 == t.2
  let items := sortBy (fun a b => a ≤ b) (row.map (·.item)).eraseDups
  let per := items.map fun i => (i, row.filter fun c => c.item == i)
  let es := (b.tileQuads t).flatMap fun q => per.filterMap fun p =>
    let cov := b.quadCov p.2 q.1 q.2
    if cov.all (· == 0) then none else some (p.1, q, cov)
  let covs := es.flatMap fun e => e.2.2.filter (· != 0)
  { b with
    tile := some t, quads := if b.noemit then [] else es.map fun e => b.quadRecs e.1 e.2.1.1 e.2.1.2 e.2.2,
    ntiles := b.ntiles + 1, nquads := b.nquads + es.length, frags := b.frags + covs.length,
    covsum := covs.foldl (· + ·) b.covsum }

/-! ### The engine -/

/-- The batch a die's engine runs: the first whose context runs. -/
def rastHead (s : State) (die : Nat) : Option Batch := (findDie s die).raster.find? fun b => ctxRuns s b.ctx
/-- Changes a batch. -/
def onBatch (die id : Nat) (f : Batch → Batch) (s : State) : State :=
  onDie die (fun d => { d with raster := d.raster.map fun b => if b.id == id then f b else b }) s
/-- The batches in a die's queue of contexts that are on the die (R461). -/
def rastQueued (s : State) (die : Nat) : Nat :=
  ((findDie s die).raster.filter fun b => match findCtx s b.ctx with
    | some x => x.state != .inShadow && x.state != .inSave
    | none => true).length
/-- The key of a raster bin, which no SPAWN writes (R465). -/
def rastKey (e : Nat) : Nat := 2 ^ 60 + e % 2 ^ 52
/-- The kernel a batch's ENTRY names. -/
def batchKern (s : State) (die : Nat) (b : Batch) : Option (Grid × Kern) :=
  match findGrid s b.grid with
  | none => none
  | some g => (entryKern s { Wave.noWave with ctx := b.ctx, die := die, core := b.core, ver := g.ver }
    (b.fld 0 8 % 2 ^ 52)).map fun k => (g, k)
/-- Writes a quad's records into their bin. -/
def emitQuad (die : Nat) (b : Batch) (recs : List (List W32)) (s : State) : State :=
  match batchKern s die b with
  | some (g, k) => recs.foldl (fun s r => appendRec die g (16 ≤ b.core) true (rastKey (b.fld 0 8)) k r s) s
  | none => s
/-- The batch's status (Table 16.5). -/
def Batch.status (b : Batch) : Nat :=
  b.cause * 2 ^ 24 + (if b.bad then 2 ^ 17 else 0) + (if b.flat then 2 ^ 16 else 0) + b.code
/-- Adds a total at its home, once (R467). -/
def addTotal (k x : Nat) (s : State) : State :=
  let s := recallBytes k 8 s
  writeHome s k (bytesOf 8 ((cohNat s k 8 + x) % 2 ^ 64))
/-- The statistics of a batch that has ended (R464, R467). -/
def batchStats (die : Nat) (b : Batch) (s : State) : State :=
  match b.statKey with
  | none => s
  | some k =>
    let s := batchLost die b (b.fld 0x28 8) k s
    if b.code == 0 then
      let ts := [b.items, b.badItems, b.segs, b.ntiles, b.nquads, b.frags, b.covsum]
      ((List.range 7).zip ts).foldl (fun s p => addTotal (k + 8 * p.1) p.2 s) s
    else if b.code == 1 then (let s := recallBytes (k + 0x38) 8 s; writeHome s (k + 0x38) (bytesOf 8 b.faddr))
    else s

/-! ### RAST (R461, R462) -/

/-- Is the die's queue full (R17, R461)? -/
def rastFull (s : State) : Bool := 8 ≤ rastQueued s s.wave.die
/-- RAST: once the accesses of its lanes before it are performed (R466), the descriptor's checks, then its issue. -/
def rastR (f : RF) (x : RastX) (s : State) : Eff :=
  let m := s.wave.cur.mask
  let desc := match f.a with | .s n => (rdS64 s n.toNat).toNat | _ => 0
  let stop (cause sub addr : Nat) : Eff := .trap { cause := cause, sub := sub, mask := m, addr := addrW addr }
  if texWaits s false m || texWaits s true 0 then .hold []
  else match plainRead s true [] 0 desc 64 64 with
  | (s, .miss va) => .walk (walkFor s.wave.die s.wave.ctx va (wantOf s true false [])) s.wave.cur.held
  | (_, .waits) => .hold []
  | (_, .fault k b a) => stop k b a
  | (s, .val v) =>
    let b := bytesOf 64 v
    let at_ (off n : Nat) : Nat := bytesAt b off n
    let stat := at_ 0x28 8
    if at_ 0x12 2 != 0 || at_ 0x24 4 != 0 || at_ 0x30 16 != 0 then stop 1 2 desc
    else if at_ 8 8 % 32 != 0 then stop 7 0 (at_ 8 8)
    else if stat % 64 != 0 then stop 7 0 stat
    else match if stat == 0 then Xl.ok 0 else translate s s.wave.die s.wave.ctx stat 64 (wantOf s true true noMmio) with
      | .miss => .walk (walkFor s.wave.die s.wave.ctx stat (wantOf s true true noMmio)) s.wave.cur.held
      | .fault k b a => stop k b a
      | .ok key =>
        if !x.noemit && 10 ≤ ((findGrid s s.wave.grid).map (·.depth)).getD 0 then stop 0x0B 6 0
        else if !x.noemit && (entryKern s s.wave (at_ 0 8 % 2 ^ 52)).isNone then stop 0x0B 7 (at_ 0 8)
        else
          let p := newPending s .raster 0 true f.d.toNat 1 []
          let c : Batch :=
            { id := p.id, uid := p.uid, ctx := p.ctx, grid := s.wave.grid, entry := s.wave.cur.idx, core := s.wave.core,
              d := f.d.toNat, sup := s.wave.cur.h, strict := s.wave.mode.getLsbD 7,
              desc := addrW desc, bytes := b, statKey := if stat == 0 then none else some key, noemit := x.noemit,
              rule := x.rule.toNat, kind := x.kind.toNat, phase := 0, code := 0, cause := 0, faddr := 0, bad := false,
              flat := false, cells := [], tiles := [], tile := none, quads := [], items := 0, badItems := 0, segs := 0, ntiles := 0,
              nquads := 0, frags := 0, covsum := 0 }
          .next (onDie s.wave.die (fun d => { d with raster := d.raster ++ [c] }) (addPending p s))

/-! ### The arms -/

def execRast (f : RF) (x : RastX) (s : State) : Out := issueEng rastFull (.rast f x) s (rastR f x)
/-- RAST_PHASE1 (R464): after every earlier access of the issuing wave (R466). -/
def execRastPhase1 (die : Nat) (s : State) : Out :=
  match rastHead s die with
  | some b =>
    if b.phase != 0 || (s.pend.any fun q => q.uid == b.uid && !q.thread && q.id < b.id && isAccess q.kind) then .next s
    else match readItems die (b.fld 0x10 2) 0 b s with
      | (s, none) => .next s
      | (s, some c) =>
        .next (onBatch die b.id (fun _ => if c.phase == 2 then c else { c with phase := 1, tiles := rastTiles c.cells }) s)
  | none => .next s
/-- RAST_TILE (R464): the next tile, once the last one's quads are written. -/
def execRastTile (die : Nat) (s : State) : Out :=
  match rastHead s die with
  | some b =>
    match b.tiles with
    | t :: rest =>
      .next (if b.phase == 1 && b.quads.isEmpty then onBatch die b.id (fun b => { b.takeTile t with tiles := rest }) s else s)
    | [] => .next s
  | none => .next s
/-- QUAD_EMIT (R465): four records enter their bin together, when the die has room. -/
def execQuadEmit (die : Nat) (s : State) : Out :=
  match rastHead s die with
  | some b =>
    match b.quads with
    | q :: rest =>
      .next (if binRoom s die b.grid 4 [rastKey (b.fld 0 8)] then onBatch die b.id (fun b => { b with quads := rest }) (emitQuad die b q s)
        else s)
    | [] => .next s
  | none => .next s
/-- RAST_BATCH_COMPLETE (R464, R466, R467): the statistics, once no copy owns their bytes (R127), then the status. -/
def execRastBatchComplete (die : Nat) (s : State) : Out :=
  match rastHead s die with
  | some b =>
    if (b.phase == 2 || (b.phase == 1 && b.tiles.isEmpty && b.quads.isEmpty)) && !(b.statKey.any fun k => copyOwns s k 64) then
      let s := batchStats die b s
      let s := onDie die (fun d => { d with raster := d.raster.filter fun x => x.id != b.id }) s
      match findPending s b.id with
      | some p =>
        .next (onAnyWave p.uid (fun w => Wave.fullReply p 0 (Wave.putReply p 0 [BitVec.ofNat 32 b.status] w))
          { s with pend := s.pend.filter fun q => q.id != p.id })
      | none => .next s
    else .next s
  | none => .next s

end Sys2Proof.Machine
end

