-- ==== Sys2Proof/Machine/Innkeeper.lean ====
section
/-! DEFINITION. The outside world: registration (R482), BAR 0 and 1 (R481, R483), the memory window (R485, R486), Grensan
links (R488 to R492), the Innkeeper's commands, sensors, firmware, alarm and resets (R493 to R501). -/
namespace Sys2Proof.Machine
open Sys2Proof

/-! ### Registers of BAR 0 (Tables 17.2, 17.3, 17.6) -/

/-- STATE codes of DEVSTAT. -/
def DevState.code : DevState → Nat
  | .reset => 0 | .boot => 1 | .ready => 2 | .failed => 3 | .alarm => 4
/-- DEVSTAT. -/
def devstat (s : State) : Nat := Config.stepTag * 2 ^ 32 + s.plat.failDie * 2 ^ 8 + s.plat.dev.code
/-- MBCMD. -/
def mbcmd (s : State) : Nat := (if s.plat.mbGo then 2 ^ 63 else 0) + s.plat.mbStatus * 2 ^ 32 + s.plat.mbCmd
/-- The distance of two dies of the mesh (R10, R110). -/
def meshDist (a b : Nat) : Nat :=
  ((a % 8 : Nat) - (b % 8 : Nat) : Int).natAbs + ((a / 8 : Nat) - (b / 8 : Nat) : Int).natAbs
/-- The compute die attached to an I/O die (R11). -/
def attachedDie (io : Nat) : Nat := [0, 7, 56, 63].getD io 0
/-- This module's own unique ID (R498). -/
def ownUid : W64 := Config.digest 28 []
/-- A module that has no fabric ID yet is given one that no other has; which one the manual leaves open (R492, assumption 35). -/
def giveFabric (uid : W64) (p : Platform) : Platform :=
  if p.fabric.any fun x => x.1 == uid then p
  else
    let ids := (List.range 256).map fun (i : Nat) => ((Config.digest 26 (bytesOf 8 uid.toNat)).toNat + i) % 256
    match ids.find? fun i => !p.fabric.any fun x => x.2 == i with
    | some i => { p with fabric := p.fabric ++ [(uid, i)] }
    | none => p
/-- The paths to every valid peer, over the links that are up (R110, R492): a path with n switches has n + 1 links. -/
def pathsOf (p : Platform) : List DistPath :=
  (p.peer.filter fun x => x.2.getLsbD 63).flatMap fun x => (p.links.filter (·.up)).flatMap fun l =>
    (l.routes.filter fun r => p.fabric.contains (r.uid, x.2.toNat % 256)).map fun r =>
      { peer := x.1, near := attachedDie (l.id / 8), hops := 2 * r.switches.length + 1, far := attachedDie r.io }
/-- The distance of R110 over a path: near mesh, links and switches, far mesh. -/
def DistPath.dist (d e : Nat) (x : DistPath) : Nat := meshDist d x.near + x.hops + meshDist x.far e
/-- Byte 64p + e of die d's DIST table (R110, R492): the smallest distance over the paths, 0xFF above 16 or without a path. -/
def distByte (s : State) (d p e : Nat) : Nat :=
  match s.plat.dist with
  | none => 0
  | some ps =>
    if p == 0 then meshDist d e
    else ((ps.filter fun x => x.peer == p).map (DistPath.dist d e)).foldl (fun m x => if x ≤ 16 then min m x else m) 0xFF
/-- The counters of a die (R496). -/
def dieCounters (s : State) (d : Nat) : List Byte :=
  let x := findDie s d
  [x.ce, x.ue, x.sdbres, x.qsat, x.winflt, 0, 0, 0].flatMap (bytesOf 8)
/-- A link. -/
def findLink (s : State) (n : Nat) : Option Link := s.plat.links.find? fun l => l.id == n
/-- CtxState and halt reason codes as CCTL reads them (R424); of a context that is not registered, zero. -/
def CtxState.code : CtxState → Nat
  | .running => 0 | .halting => 1 | .halted => 2 | .swapping => 3 | .inShadow => 4 | .inSave => 5 | .restoring => 6
def cctl (s : State) (c : Nat) : Nat :=
  match findCtx s c with
  | some x => x.state.code + 16 * x.reason.code
  | none => 0
/-- A byte of BAR 0 as the host reads it (R481). -/
def bar0Byte (s : State) (off : Nat) : Byte :=
  let b (x i : Nat) : Byte := BitVec.ofNat 8 (x / 256 ^ i)
  if off < 8 then b (devstat s) off
  else if 0x20 ≤ off && off < 0x28 then b (mbcmd s) (off - 0x20)
  else if 0x1000 ≤ off && off < 0x2000 then Store.get 0 s.plat.mbbuf (off - 0x1000)
  else if 0x10000 ≤ off && off < 0x50000 then
    (if off % 64 < 8 then b (Store.get 0 s.plat.cdesc ((off - 0x10000) / 64)).toNat (off % 64)
     else if off % 64 < 16 then b (cctl s ((off - 0x10000) / 64)) (off % 64 - 8)
     else Store.get 0 s.plat.bar0 off)
  else if 0x80000 ≤ off && off < 0x88000 then
    (if off % 16 == 12 then Store.get 0 s.plat.bar0 off ^^^ 1 else Store.get 0 s.plat.bar0 off)
  else if 0x88000 ≤ off && off < 0x88100 then
    BitVec.ofNat 8 ((List.range 8).foldl (fun (a i : Nat) => if s.plat.pba.contains (8 * (off - 0x88000) + i) then a + 2 ^ i else a) 0)
  else if 0x100000 ≤ off && off < 0x101000 then (dieCounters s ((off - 0x100000) / 64)).getD (off % 64) 0
  else if 0x101000 ≤ off && off < 0x101200 then
    (match findLink s ((off - 0x101000) / 16) with
      | some l => if off % 16 < 8 then b l.crc (off % 8) else b l.linkErr (off % 8)
      | none => 0)
  else if 0x200000 ≤ off && off < 0x300000 then
    BitVec.ofNat 8 (distByte s ((off - 0x200000) / 16384) ((off - 0x200000) % 16384 / 64) (off % 64))
  else if 0x300000 ≤ off && off < 0x300800 then b (Store.get 0 s.plat.peer ((off - 0x300000) / 8)).toNat (off % 8)
  else Store.get 0 s.plat.bar0 off
/-- A byte of BAR 1 as the host reads it (Table 17.4). -/
def bar1Byte (s : State) (off : Nat) : Byte :=
  match findQueue s (off / 4096) with
  | none => 0
  | some q =>
    let o := off % 4096
    let b (x i : Nat) : Byte := BitVec.ofNat 8 (x / 256 ^ i)
    if o < 8 then b q.doorbell o
    else if o < 0x10 then b q.qdesc.toNat (o - 8)
    else if o < 0x14 then b ((q.ctx.map (2 ^ 31 + ·)).getD 0) (o - 0x10)
    else if 0x20 ≤ o && o < 0x28 then b q.ridx (o - 0x20)
    else 0

/-! ### Registration (R482) -/

/-- Everything that belongs to a context leaves the module. -/
def dropCtx (c : Nat) (s : State) : State :=
  let s := removeWaves (fun w => w.ctx == c) s
  let gone (t : Nat) : Bool := s.teams.any fun x => x.id == t && x.ctx == c
  let asked (id : Nat) : Bool := s.pend.any fun p => p.id == id && p.ctx == c
  dropEntries (fun e => e.ctx == c)
    { s with
      plat := { s.plat with posts := s.plat.posts.filter fun x => !asked x.1 },
      ctxs := s.ctxs.filter fun x => x.id != c, pend := s.pend.filter fun p => p.ctx != c,
      bins := s.bins.filter fun b => !(s.grids.any fun g => g.uid == b.parent && g.ctx == c),
      grids := s.grids.filter fun g => g.ctx != c,
      tags := s.tags.filter fun t => !((t.team.any gone) || t.copy.any fun x => x.ctx == c),
      teams := s.teams.filter fun t => t.ctx != c, images := s.images.filter fun i => i.ctx != c,
      posted := s.posted.filter fun p => p.ctx != c, copies := s.copies.filter fun x => x.ctx != c,
      dies := s.dies.map fun d => { d with raster := d.raster.filter fun b => b.ctx != c } }
/-- The place a CDESC names. -/
def cdescKey (v : W64) : Nat := dramKey (bitsOf v.toNat 49 44) (bitsOf v.toNat 43 0)
/-- A registered context. -/
def newCtx (c key : Nat) (desc : List Byte) : Ctx :=
  { id := c, descKey := key, desc := desc, state := .running, reason := .none, inc := none, acks := [],
    fatal := none, late := [], haltAt := 0,
    paused := false, nextGid := 1, nextVer := 1, vers := [] }

/-- CDESC_WRITE (R482); its reserved bits [62:50] read as zero (R3). It waits while a copy owns bytes of the descriptor (R127). -/
def execCdescWrite (ctx : Nat) (val : W64) (s : State) : Out :=
  if 4096 ≤ ctx || !afterReady s then .next s
  else if !val.getLsbD 63 then
    .next (onPlat (fun p => { p with cdesc := Store.set 0 p.cdesc ctx 0 }) (dropCtx ctx s))
  else
    let key := cdescKey val
    if s.plat.dev != .ready || !s.plat.powered || (Store.get 0 s.plat.cdesc ctx).getLsbD 63 || key % 64 != 0 then .next s
    else if copyOwns s key 640 then .next { s with inputs := .event (.cdescWrite ctx val) :: s.inputs }
    else
    let s := recallBytes key 640 s
    let desc := cohRead s key 640
    if bytesAt desc 0 4 % 4096 != ctx then .next s
    else .next (onPlat (fun p => { p with cdesc := Store.set 0 p.cdesc ctx (val &&& 0x8003FFFFFFFFFFFF#64) })
      { s with ctxs := s.ctxs ++ [newCtx ctx key desc] })

/-! ### Plain registers (R481, R483) -/

/-- Bytes written over a store from an offset. -/
def overlay (st : Store Byte) (off : Nat) (data : List Byte) : Store Byte :=
  ((List.range data.length).zip data).foldl (fun st p => Store.set 0 st (off + p.1) p.2) st
/-- A number with bytes written over it. -/
def overlayN (old n off : Nat) (data : List Byte) : Nat :=
  natOfBytes ((List.range n).map fun (i : Nat) =>
    if off ≤ i && i < off + data.length then data.getD (i - off) 0 else BitVec.ofNat 8 (old / 256 ^ i))
/-- A command has ended: GO is cleared, STATUS written and vector 0 sent (R493). -/
def mbDone (status : Nat) (s : State) : State := sendMsix 0 (onPlat (fun p => { p with mbGo := false, mbStatus := status }) s)
/-- A write to MBCMD: ignored while GO is set; a command that does not exist ends at once. -/
def writeMbcmd (off : Nat) (data : List Byte) (s : State) : State :=
  let x := overlayN (mbcmd s) 8 off data
  if s.plat.mbGo then s
  else
    let s := onPlat (fun p => { p with mbCmd := x % 256 }) s
    if !bitAt x 63 then s
    else if x % 256 == 0 || 9 < x % 256 then mbDone 1 s
    else onPlat (fun p => { p with mbGo := true }) s
/-- A write of QDESC (Table 17.4). -/
def writeQdesc (slot off : Nat) (data : List Byte) (s : State) : State :=
  onQueue slot (fun q => { q with qdesc := BitVec.ofNat 64 (overlayN q.qdesc.toNat 8 off data % 2 ^ 52) }) (touchQueue slot s)
/-- Writes the window entries; their reserved bits read as zero (R3, R485). -/
def writeWin (off : Nat) (data : List Byte) (p : Platform) : Platform :=
  let keep (o : Nat) (x : Byte) : Byte := if 4 ≤ o && o < 8 then x else if o == 8 then x &&& 1 else 0
  { p with bar0 := overlay p.bar0 off (((List.range data.length).zip data).map fun x => keep ((off + x.1) % 16) x.2) }
/-- Writes the MSI-X table: a pending vector that is no longer masked is sent (R487). Vector control has one bit, and its
reserved ones read as zero (R3). -/
def writeMsix (off : Nat) (data : List Byte) (p : Platform) : Platform :=
  let keep (o : Nat) (x : Byte) : Byte := if o < 12 then x else if o == 12 then (x ^^^ 1) &&& 1 else 0
  let bs := ((List.range data.length).zip data).map fun x => keep ((off + x.1) % 16) x.2
  let p := { p with bar0 := overlay p.bar0 off bs }
  (p.pba.filter fun v => !msixMasked p v).foldl (fun p v => postMsix v p) { p with pba := p.pba.filter (msixMasked p) }
/-- REGISTER_WRITE (R481, R483): WIN, the MSI-X table, MBBUF, MBCMD and QDESC; other offsets have an event of their own, are
read-only or do not exist. -/
def execRegisterWrite (bar off : Nat) (data : List Byte) (s : State) : Out :=
  let ends := off + data.length
  let inside (lo hi : Nat) : Bool := lo ≤ off && ends ≤ hi
  if s.plat.dev == .reset then .next s
  else if bar == 0 then
    .next (if inside 0x20 0x28 then writeMbcmd (off - 0x20) data s
      else if inside 0x400 0x800 then onPlat (writeWin off data) s
      else if inside 0x80000 0x88000 then onPlat (writeMsix off data) s
      else if inside 0x1000 0x2000 then onPlat (fun p => { p with mbbuf := overlay p.mbbuf (off - 0x1000) data }) s
      else s)
  else if bar == 1 && off < 2 ^ 24 then
    .next (if afterReady s && 8 ≤ off % 4096 && off % 4096 + data.length ≤ 16 then
      writeQdesc (off / 4096) (off % 4096 - 8) data s else s)
  else .next s

/-- PEER_WRITE (R491, R492): entry 0 is unused; the DIST tables are then computed again, but not while a context is registered
(R111). -/
def execPeerWrite (p : Nat) (val : W64) (s : State) : Out :=
  .next (if p == 0 || 256 ≤ p || !afterReady s then s
    else
      let s := onPlat (fun x => { x with peer := Store.set 0 x.peer p (val &&& 0x80000000000000FF#64) }) s
      if s.ctxs.isEmpty then onPlat (fun x => { x with dist := some (pathsOf x) }) s else s)

/-! ### Mailbox commands (R493 to R498) -/

/-- Bytes of MBBUF. -/
def mbBytes (s : State) (off n : Nat) : List Byte := (List.range n).map fun (i : Nat) => Store.get 0 s.plat.mbbuf (off + i)
/-- A number in MBBUF. -/
def mbNat (s : State) (off n : Nat) : Nat := natOfBytes (mbBytes s off n)
/-- A result is written after the 64 bytes of the argument. -/
def mbResult (b : List Byte) (s : State) : State := onPlat (fun p => { p with mbbuf := overlay p.mbbuf 64 b }) s
/-- Does the Innkeeper hold a command of the given code? -/
def mbHas (cmd : Nat) (s : State) : Bool := s.plat.mbGo && s.plat.mbCmd == cmd
/-- Bytes whose arrangement the manual does not state: `n` words that depend on what they report alone. -/
def report (kind n : Nat) (b : List Byte) : List Byte :=
  (List.range n).flatMap fun (i : Nat) => bytesOf 8 (Config.digest kind (bytesOf 8 i ++ b)).toNat

/-- A log entry's 64 bytes (R495). -/
def logBytes (i : Nat) (e : LogEntry) : List Byte :=
  bytesOf 8 e.clock ++ bytesOf 1 e.kind ++ bytesOf 1 e.die ++ bytesOf 2 e.unit ++ bytesOf 4 e.ctx ++ bytesOf 8 e.addr ++ bytesOf 8 i ++
    List.replicate 32 0
/-- READLOG: up to 63 entries from an index on. -/
def execReadlog (s : State) : Out :=
  if !mbHas 1 s then .next s
  else
    let p := s.plat
    let base := p.logNext - p.log.length
    let es := (((List.range p.log.length).zip p.log).filter fun x => mbNat s 0 8 ≤ base + x.1).take 63
    .next (mbDone 0 (mbResult (es.flatMap fun x => logBytes (base + x.1) x.2) s))
/-- CLRCNT (R496). -/
def execClrcnt (s : State) : Out :=
  if !mbHas 2 s then .next s
  else
    let s := { s with dies := s.dies.map fun d => { d with ce := 0, ue := 0, sdbres := 0, qsat := 0, winflt := 0 } }
    .next (mbDone 0 (onPlat (fun p => { p with links := p.links.map fun l => { l with crc := 0, linkErr := 0 } }) s))

/-- Nominal clocks and floors in MHz of the islands of a die (Table 1.1, R12): the D-core clusters, the L-core cluster, L2 and
fabric, memory controllers, raster and texture. -/
def nominalMhz (i : Nat) : Nat := if i % 8 < 4 then 3000 else if i % 8 == 4 then 3600 else 2000
def floorMhz (i : Nat) : Nat := if i % 8 ≤ 4 then 2400 else 1800
/-- The width of a step of an island's operating point, in MHz: the device's own (assumption 4). -/
def stepMhz (i : Nat) : Nat := Config.choice 20 i + 1
/-- The lowest operating point of an island, in steps below nominal: no clock below its floor (R12). -/
def floorStep (i : Nat) : Nat := (nominalMhz i - floorMhz i) / stepMhz i
/-- The island's operating point. -/
def islandStep (s : State) (i : Nat) : Nat := Store.get 0 s.plat.islands i
/-- Sets an island's operating point, never below its floor. -/
def setIsland (i x : Nat) (s : State) : State := onPlat (fun p => { p with islands := Store.set 0 p.islands i (min x (floorStep i)) }) s
/-- The D-core cluster islands. -/
def dIslands : List Nat := (List.range 64).flatMap fun (d : Nat) => (List.range 4).map fun (c : Nat) => 8 * d + c
/-- The power limit acts on the last reading (R494). -/
def capPower (s : State) : State :=
  if s.plat.readings.draw ≤ s.plat.powercap then s
  else if dIslands.all fun i => floorStep i ≤ islandStep s i then logEvent 5 0 0 0 0 s
  else dIslands.foldl (fun s i => setIsland i (islandStep s i + 1) s) s
/-- POWERCAP. -/
def execPowercap (s : State) : Out :=
  if !mbHas 3 s then .next s
  else
    let x := mbNat s 0 4
    .next (if x < 2000 || 21000 < x then mbDone 2 s else mbDone 0 (capPower (onPlat (fun p => { p with powercap := x }) s)))
/-- The readings of R494 as SENSORS returns them: each island's temperature and current, 2 bytes each, then coolant inlet and
outlet, flow, voltage, current and draw, 8 bytes each. The manual gives no layout (assumption 23). -/
def readingBytes (r : Readings) : List Byte :=
  (List.range 512).flatMap (fun (i : Nat) => bytesOf 2 (Store.get 0 r.temps i) ++ bytesOf 2 (Store.get 0 r.currents i)) ++
    [r.inlet, r.outlet, r.flow, r.volts, r.amps, r.draw].flatMap (bytesOf 8)
/-- SENSORS. -/
def execSensors (s : State) : Out :=
  if !mbHas 4 s then .next s else .next (mbDone 0 (mbResult (readingBytes s.plat.readings) s))

/-- The slot that FWSTAGE writes: the one the boot pointer does not name. -/
def spareSlot (s : State) : Nat := 1 - s.plat.fwBoot
/-- The bytes of a slot's image. -/
def slotImage (p : Platform) (n : Nat) : Store Byte := p.fwImage.filter fun x => x.1 / 2 ^ 40 == n
/-- The image as bytes with their places. -/
def slotBytes (p : Platform) (n : Nat) : List Byte := (slotImage p n).flatMap fun x => bytesOf 8 x.1 ++ [x.2]
def imageBytes (s : State) (n : Nat) : List Byte := slotBytes s.plat n
/-- BAR 2's size in GiB, which a slot's firmware configures (Table 17.1): a function of its bytes. -/
def barSize (p : Platform) (n : Nat) : Nat := 16 * 2 ^ ((Config.digest 29 (slotBytes p n)).toNat % 3)
/-- Does a slot's image verify, and its SVN (R497): functions of its bytes. -/
def imageVerifies (s : State) (n : Nat) : Bool := (Config.digest 20 (imageBytes s n)).getLsbD 0
def imageSvn (s : State) (n : Nat) : Nat := (Config.digest 21 (imageBytes s n)).toNat % 64
/-- FWSTAGE: a chunk of the inactive slot's image. -/
def execFwstage (s : State) : Out :=
  if !mbHas 5 s then .next s
  else
    let off := mbNat s 0 8
    let len := mbNat s 8 4
    let n := spareSlot s
    if 4084 < len || 2 ^ 40 < off + len then .next (mbDone 2 s)
    else .next (mbDone 0 (onPlat (fun p =>
      { p with fwImage := overlay p.fwImage (2 ^ 40 * n + off) (mbBytes s 12 len), fwValid := p.fwValid.filter fun x => x != n }) s))
/-- The boot pointer switches to a slot that verifies (R497). -/
def commitSlot (s : State) : State :=
  let n := spareSlot s
  let svn := imageSvn s n
  let up := bitAt (mbNat s 0 4) 0
  onPlat (fun p =>
    { p with fwBoot := n, fwValid := if p.fwValid.contains n then p.fwValid else n :: p.fwValid,
             minSvn := if up then max p.minSvn svn else p.minSvn }) s
/-- May the inactive slot be committed? -/
def mayCommit (s : State) : Bool := imageVerifies s (spareSlot s) && s.plat.minSvn ≤ imageSvn s (spareSlot s)
/-- FWCOMMIT. -/
def execFwcommit (s : State) : Out :=
  if !mbHas 6 s then .next s
  else .next (if mayCommit s then mbDone 0 (commitSlot s) else mbDone 3 s)

/-- CTXTAB as bytes: each entry's CDESC and CCTL, its reserved bytes zero (Table 17.2). -/
def ctxtabBytes (s : State) : List Byte :=
  (List.range 4096).flatMap fun (c : Nat) => bytesOf 8 (Store.get 0 s.plat.cdesc c).toNat ++ bytesOf 8 (cctl s c) ++ List.replicate 48 0
/-- What ATTEST reports (R498): nonce, unique ID, the running firmware's hash and SVN, STEPTAG and CTXTAB's hash, in the rule's
order. The layout and the hashes' values are the model's (assumption 23). -/
def attestBytes (s : State) : List Byte :=
  mbBytes s 0 32 ++ bytesOf 8 ownUid.toNat ++ report 31 4 (imageBytes s s.plat.fwRun) ++ bytesOf 8 (imageSvn s s.plat.fwRun) ++
    bytesOf 8 Config.stepTag ++ report 32 4 (ctxtabBytes s)
/-- The report's signature by a leaf of the identity key, and the key's certificate. -/
def attestSigned (s : State) : List Byte :=
  attestBytes s ++ report 12 300 (bytesOf 4 s.plat.leaf ++ attestBytes s) ++ report 33 100 (bytesOf 8 ownUid.toNat)
/-- ATTEST: the leaf is used up before the report leaves. -/
def execAttest (s : State) : Out :=
  if !mbHas 7 s then .next s
  else if s.plat.keyErased then .next (mbDone 5 s)
  else if s.plat.leaf == 0 then .next (mbDone 4 s)
  else .next (mbDone 0 (mbResult (attestSigned s) (onPlat (fun p => { p with leaf := p.leaf - 1 }) s)))
/-- What TOPO lists: the modules with their fabric IDs, then each route with its link, module, I/O die and switches, as far as
MBBUF holds them. The manual gives no layout (assumption 23). -/
def topoBytes (p : Platform) : List Byte :=
  (bytesOf 4 p.fabric.length ++ p.fabric.flatMap (fun x => bytesOf 8 x.1.toNat ++ bytesOf 1 x.2) ++
    p.links.flatMap fun l => l.routes.flatMap fun r =>
      bytesOf 1 l.id ++ bytesOf 8 r.uid.toNat ++ bytesOf 1 r.io ++ bytesOf 1 r.switches.length ++
        r.switches.flatMap fun x => bytesOf 8 x.toNat).take 4032
/-- TOPO (R492). -/
def execTopo (s : State) : Out :=
  if !mbHas 8 s then .next s else .next (mbDone 0 (mbResult (topoBytes s.plat) s))

/-! ### Flits (Table 17.5) -/

/-- One bit, and one byte, of CRC-32C. -/
def crc32Bit (c : W32) : W32 := (c >>> 1) ^^^ (if c.getLsbD 0 then 0x82F63B78#32 else 0#32)
def crc32Byte (c : W32) (b : Byte) : W32 := (List.range 8).foldl (fun c _ => crc32Bit c) (c ^^^ (0#24 ++ b))
/-- CRC-32C. -/
def crc32c (b : List Byte) : W32 := ~~~(b.foldl crc32Byte 0xFFFFFFFF#32)
/-- Is a flit whole, with a right CRC? -/
def crcOk (f : List Byte) : Bool := f.length == 256 && bytesAt f 252 4 == (crc32c (f.take 252)).toNat
/-- Is it, and of the given TYPE? -/
def flitOk (ty : Nat) (f : List Byte) : Bool := bytesAt f 0 1 == ty && crcOk f
/-- A flit of the given fields. -/
def buildFlit (ty n : Nat) (credit seq : List Byte) (ack : Nat) (body : List Byte) : List Byte :=
  let b := bytesOf 1 ty ++ bytesOf 1 n ++ credit ++ seq ++ bytesOf 4 ack ++ body ++ List.replicate (240 - body.length) 0
  b ++ bytesOf 4 (crc32c b).toNat
/-- A data flit of one slot. -/
def mkFlit (seq ack : Nat) (credit : List Byte) (slot : List Byte) : List Byte := buildFlit 1 1 credit (bytesOf 4 seq) ack slot
/-- Changes a link. -/
def onLink (n : Nat) (f : Link → Link) (s : State) : State :=
  onPlat (fun p => { p with links := p.links.map fun l => if l.id == n then f l else l }) s
/-- A flit leaves on a link. -/
def emitFlit (link : Nat) (f : List Byte) (s : State) : State := onPlat (fun p => { p with flits := (link, f) :: p.flits }) s
/-- Bytes of a flit that the manual leaves open. -/
def flitFree (s : State) (tag n : Nat) : List Byte :=
  (List.range n).map fun (i : Nat) => (Config.undefWord s.freeCtr tag (256 * s.plat.flits.length + i)).extractLsb' 0 8
/-- ACKSEQ: the highest SEQ received in order. -/
def lastSeq (l : Link) : Nat := (l.rxSeq + (2 ^ 32 - 1)) % 2 ^ 32
/-- A flit without slots, such as an acknowledgement or a nak. -/
def sendControl (ty link : Nat) (body : List Byte) (s : State) : State :=
  match findLink s link with
  | some l => emitFlit link (buildFlit ty 0 (flitFree s 37 2) (flitFree s 40 4) (lastSeq l) body) s
  | none => s
/-- A nak, which is a retry and counts (R489). -/
def sendNak (link : Nat) (s : State) : State := sendControl 3 link [] (onLink link (fun l => { l with crc := satInc l.crc }) s)
/-- The Innkeeper sends a discovery flit on every link (R492); its content the manual does not state. -/
def sendDiscovery (s : State) : State := s.plat.links.foldl (fun s l => sendControl 4 l.id (flitFree s 41 240) s) s

/-! ### Resets (R501) -/

/-- Memory outside the module. -/
def outsideMem (m : Memory) : Memory := m.filter fun x => 2 ^ 70 ≤ x.1
/-- The firmware slot that boots: the pointed one, else the other (R497). -/
def bootSlot (boot : Nat) (ok : List Nat) : Option Nat := [boot, 1 - boot].find? fun n => ok.contains n
/-- What survives without power: firmware, keys and fuses. -/
def keepFuses (p q : Platform) : Platform :=
  { q with fwBoot := p.fwBoot, fwValid := p.fwValid, fwImage := p.fwImage, minSvn := p.minSvn, leaf := p.leaf, keyErased := p.keyErased,
           eraseFuse := p.eraseFuse, fitted := p.fitted }
/-- The links of the four I/O dies before discovery. -/
def trainedLinks : List Link :=
  (List.range 32).map fun (n : Nat) =>
    { id := n, up := false, rxSeq := 0, txSeq := 0, unacked := [], replays := 0, crc := 0,
      linkErr := 0, peer := none, routes := [], held := [] }
/-- The module without waves, contexts and memory of its own. -/
def bareState (s : State) (p : Platform) : State :=
  { State.reset with mem := outsideMem s.mem, plat := p, inputs := s.inputs, nextId := s.nextId, freeCtr := s.freeCtr }
/-- The device after a warm reset, or where no firmware verifies. -/
def bringUp (ok : List Nat) (p : Platform) : Platform :=
  match bootSlot p.fwBoot ok with
  | some n => { p with dev := .ready, failDie := 0, powered := true, fwRun := n, fwValid := ok, bar2 := barSize p n }
  | none => { p with dev := .failed, failDie := 0, powered := true, fwValid := ok }
/-- POWER_GOOD (R497, R501): a cold reset, up to step 2 of Table 17.7; DEVSTAT is BOOT, or FAILED when no firmware verifies. -/
def execPowerGood (tests : BringUp) (s : State) : Out :=
  let ok := (if tests.slot0 then [0] else []) ++ (if tests.slot1 then [1] else [])
  let fail := match tests.failDie with
    | some d => some (d + 1)
    | none => if tests.moduleFail then some 0 else none
  let p := keepFuses s.plat { Platform.off with links := trainedLinks }
  .next (bareState s (match bootSlot p.fwBoot ok with
    | some n => { p with dev := .boot, fwRun := n, fwValid := ok, bring := some fail, bar2 := barSize p n }
    | none => bringUp ok p))
/-- The end of bring-up (R500; Table 17.7, steps 3 to 6): the links are trained and discovery begins. An alarm that has come
meanwhile holds (R499). -/
def bootDone (s : State) : State :=
  match s.plat.bring with
  | some fail =>
    sendDiscovery (onPlat (fun p => giveFabric ownUid
      { p with bring := none, powered := true, dist := some [], failDie := fail.getD 0,
               dev := if p.alarm then .alarm else if fail.isSome then .failed else .ready }) s)
  | none => s
/-- Every context's halt line rises; one that is being swapped out records the reason (Table 17.8). -/
def haltAll (r : Reason) (s : State) : State :=
  (s.ctxs.map (·.id)).foldl (fun s c =>
    onCtx c (fun x => if x.state == .swapping then { x with reason := r } else x) (raiseHalt c r none s)) s
/-- An access in flight is performed as far as it may be. -/
def performPend (s : State) (p : Pending) : State :=
  if isLoad p.kind then
    ((p.lanes.map fun a => a.lane / 4).eraseDups).foldl (fun s q => if quadReady s p q then performLoad p q s else s) s
  else if allReady s p then performAll p s else s
/-- What is in flight when contexts halt is performed, in its order, in up to `n` rounds (R133, R424); then the messages that
waited for it leave. -/
def drain : Nat → State → State
  | 0, s => flushMsix { payAll s with owed := [] }
  | n + 1, s => drain n (payAll (s.pend.foldl performPend s))
/-- The first part of a warm reset: every context halts with reason HOST (R501). -/
def haltForReset (s : State) : State := (fun t => drain (t.pend.length + 1) t) (haltAll .host s)
/-- A warm reset (R501): contexts halt and end, dies and memory are reset; the log, the counters, the alarm and the links
stay. -/
def warmReset (s0 : State) : State :=
  let s := haltForReset s0
  let p := s.plat
  let q := keepFuses p { Platform.off with
    links := p.links.map fun l => { l with held := [] }, seen := p.seen, fabric := p.fabric, flits := p.flits,
    log := p.log, corrected := p.corrected, logNext := p.logNext, powercap := p.powercap, islands := p.islands,
    readings := p.readings, alarm := p.alarm, pba := p.pba, msgs := p.msgs, dist := some [], mbStatus := p.mbStatus, failDie := p.failDie,
    readData := p.readData, bar2 := p.bar2 }
  let up := if p.dev == .failed then { q with dev := .failed, powered := p.powered, fwRun := p.fwRun }
    else if p.dev == .boot then { q with dev := .boot, bring := p.bring, fwRun := p.fwRun, dist := none }
    else bringUp p.fwValid q
  let s' := bareState s (if p.alarm then { up with dev := .alarm } else up)
  { s' with
    dies := s.dies.map fun d => { d with tlb := [], raster := [], rr := [] }, cycle := s.cycle, clock := s.clock }
/-- RESET: the mailbox command. -/
def execReset (s : State) : Out := if !mbHas 9 s then .next s else .next (warmReset (mbDone 0 s))
/-- PCIE_HOT_RESET. -/
def execPcieHotReset (s : State) : Out := .next (if s.plat.dev == .reset then s else warmReset s)
/-- FLR_SECONDARY: clears V of a fitted function's window entries. -/
def execFlrSecondary (io : Nat) (s : State) : Out :=
  .next (if io == 0 || 4 ≤ io || !s.plat.fitted.contains io then s
    else onPlat (fun p => { p with bar0 := (List.range 16).foldl (fun st (e : Nat) =>
      let a := 0x400 + 16 * (16 * io + e) + 8
      Store.set 0 st a (Store.get 0 st a &&& 0xFE#8)) p.bar0 }) s)
/-- POWER_LOSS (R502): a commit under way leaves the old pointer or the new one. -/
def execPowerLoss (s : State) : Out :=
  let t := if mbHas 6 s && mayCommit s && choose s 17 2 == 1 then commitSlot s else s
  .next (bareState s (keepFuses t.plat Platform.off))

/-! ### Sensors and the alarm (R494, R499) -/

/-- An island's temperature rule. -/
def coolIsland (s : State) (x : Nat × Nat) : State :=
  if 95 < x.2 then setIsland x.1 (islandStep s x.1 + 1) s
  else if x.2 < 90 && s.plat.readings.draw ≤ s.plat.powercap then setIsland x.1 0 s else s
/-- Does a reading call for a thermal trip? -/
def tripped (r : Readings) : Bool := r.temps.any (fun x => 110 < x.2) || r.flow < Config.choice 21 0
/-- SENSOR_SAMPLE (R494). -/
def execSensorSample (r : Readings) (s : State) : Out :=
  if !s.plat.powered then .next s
  else
    let s := onPlat (fun p => { p with readings := r }) s
    let s := capPower (r.temps.foldl coolIsland s)
    if tripped r then
      .next (powerOff (logEvent 5 0 0 0 0 (onPlat (fun p => { p with powered := false }) (haltAll .host s))))
    else .next s
/-- SECURITY_ALARM (R499; Table 17.8): a firmware command under way is refused and the inactive slot marked invalid. -/
def execSecurityAlarm (_why : AlarmCause) (s : State) : Out :=
  if s.plat.dev == .reset then .next s
  else
    let s := sendMsix 1 (logEvent 6 0 0 0 0 (haltAll .security s))
    let n := spareSlot s
    let s := if mbHas 5 s || mbHas 6 s then
        mbDone 3 (onPlat (fun p => { p with
          fwValid := p.fwValid.filter fun x => x != n, fwImage := p.fwImage.filter fun x => x.1 / 2 ^ 40 != n }) s)
      else s
    .next (onPlat (fun p => { p with dev := .alarm, alarm := true, keyErased := p.keyErased || p.eraseFuse }) s)

/-! ### The memory window (R485, R486) -/

/-- Does an offset lie in the memory window of a function that the module has (R480, Table 17.1)? -/
def inBar (p : Platform) (io off : Nat) : Bool :=
  io < 4 && (io == 0 || p.fitted.contains io) && off < p.bar2 * 2 ^ 30 && off / 2 ^ 32 < 16
/-- A word of the window entry that serves an offset (R485). -/
def windowWord (s : State) (io off o : Nat) : Nat :=
  let e := 0x400 + 16 * (16 * io + off / 2 ^ 32)
  natOfBytes ((List.range 8).map fun (i : Nat) => Store.get 0 s.plat.bar0 (e + o + i))
/-- What a window access names: the context and virtual address, if its entry is valid. -/
def windowAt (s : State) (io off : Nat) : Option (Nat × Nat) :=
  let w := windowWord s io off
  if bitAt (w 8) 0 && (findCtx s (bitsOf (w 0) 63 52)).isSome then
    some (bitsOf (w 0) 63 52, extend52 (bitsOf (w 0) 51 32 * 2 ^ 32 + off % 2 ^ 32))
  else none
/-- An access that fails: all ones or discarded, counted and logged with the context that a valid entry names. -/
def windowFault (io off : Nat) (rd : Bool) (len : Nat) (s : State) : State :=
  let die := attachedDie io
  let c := if bitAt (windowWord s io off 8) 0 then bitsOf (windowWord s io off 0) 63 52 else 0
  let s := logEvent 4 die io c off (onDie die (fun d => { d with winflt := satInc d.winflt }) s)
  if rd then onPlat (fun p => { p with readData := List.replicate len 0xFF }) s else s
/-- BAR2_ACCESS (R486): a read of `len` bytes, or a write of `data`; it waits for a page table entry being rewritten, and for
bytes that a copy owns (R127). Outside the BAR no function answers. -/
def execBar2Access (io off : Nat) (data : Option (List Byte)) (len : Nat) (s : State) : Out :=
  if s.plat.dev == .reset || !inBar s.plat io off then .next s
  else
    let die := attachedDie io
    let n := match data with | some d => d.length | none => len
    let want : Want := match data with | some _ => { wr := true, sup := true } | none => { rd := true, sup := true }
    match windowAt s io off with
    | none => .next (windowFault io off data.isNone n s)
    | some (c, va) =>
      match reachAll die c want (pagePieces va n) s with
      | (s, .lost, _) => .next (windowFault io off data.isNone n s)
      | (s, .wait, _) => .next { s with inputs := .event (.bar2Access io off data len) :: s.inputs }
      | (s, .ok, ks) =>
        let s := placesLost die c 0 false va ks s
        match data with
        | some d => .next (ks.foldl (fun (r : State × List Byte) k => (writeHome r.1 k.1 (r.2.take k.2), r.2.drop k.2)) (s, d)).1
        | none =>
          let s := ks.foldl (fun s k => recallBytes k.1 k.2 s) s
          .next (onPlat (fun p => { p with readData := ks.flatMap fun k => cohRead s k.1 k.2 }) s)

/-! ### Grensan links (R488 to R492) -/

/-- A slot of a flit (Table 17.5). -/
def flitSlot (f : List Byte) (i : Nat) : List Byte := (f.drop (12 + 80 * i)).take 80
/-- What a slot's OP says; the codes are the device's own (assumption 4): 0 a read, 1 a full-line write, 2 a write whose
byte enables follow, 3 an atomic; the others are replies, acknowledgements and MASK slots. -/
def slotKind (b : List Byte) : Nat := Config.choice 22 (bytesAt b 0 1) % 8
/-- The place a request names. -/
def slotKey (b : List Byte) : Nat := dramKey (bitsOf (bytesAt b 8 8) 49 44) (bitsOf (bytesAt b 8 8) 43 0)
/-- Who a request comes from. -/
def slotSource (s : State) (link : Nat) (b : List Byte) : Nat :=
  (((findLink s link).bind (·.peer)).map (·.toNat)).getD 0 * 256 + bytesAt b 2 1
/-- Sends a reply on a link: TAG and DATA; OP and CREDIT hold values the manual does not state. -/
def sendReply (link : Nat) (b : List Byte) (data : List Byte) (s : State) : State × List Byte :=
  match findLink s link with
  | some l =>
    let slot := [(flitFree s 36 1).headD 0, b.getD 1 0, 0, 0] ++ (b.drop 4).take 12 ++ data ++ List.replicate (64 - data.length) 0
    let f := mkFlit l.txSeq (lastSeq l) (flitFree s 37 2) slot
    (emitFlit link f (onLink link (fun l => { l with txSeq := (l.txSeq + 1) % 2 ^ 32, unacked := l.unacked ++ [f] }) s), f)
  | none => (s, [])
/-- A home remembers a request of a source and TAG by the flit of its last answer (R489). -/
def remember (src tag : Nat) (f : List Byte) (s : State) : State :=
  onPlat (fun p => { p with seen := (src, tag, f) :: p.seen.filter fun x => !(x.1 == src && x.2.1 == tag) }) s
/-- The size of an atomic slot's operand, and its AOP and ATYPE (R34, R488). -/
def slotAop (b : List Byte) : Nat := bitsOf (bytesAt b 1 1) 6 3
def slotAty (b : List Byte) : Nat := bitsOf (bytesAt b 1 1) 2 0
def slotSize (b : List Byte) : Nat := accSize (.atom (slotAop b) (slotAty b) true)
/-- Is a byte of the line enabled by a MASK slot? -/
def enabled (mask : List Byte) (i : Nat) : Bool := bitAt (bytesAt mask 16 8) i
/-- What a write or atomic does at its home, and what it returns; a masked write comes with its MASK slot. -/
def homeEffect (b : List Byte) (mask : Option (List Byte)) (s : State) : State × List Byte :=
  let key := slotKey b
  let line := 64 * (key / 64)
  let data := b.drop 16
  match mask with
  | some m => ((List.range 64).foldl (fun s (i : Nat) =>
      if enabled m i then writeHome s (line + i) ((data.drop i).take 1) else s) s, [])
  | none =>
    if slotKind b == 1 then (writeHome s line data, [])
    else
      let n := slotSize b
      let s := recallBytes key n s
      let old := cohNat s key n
      (writeHome s key (bytesOf n (atomNew (slotAop b) (slotAty b) old (bytesAt data 0 n) (bytesAt data 8 n))), bytesOf n old)
/-- Performs a write or atomic of a slot at its home, once (R489): one that is repeated is answered as before. -/
def homeRequest (link : Nat) (b : List Byte) (mask : Option (List Byte)) (s : State) : State :=
  let src := slotSource s link b
  let tag := bytesAt b 4 4
  match s.plat.seen.find? fun x => x.1 == src && x.2.1 == tag with
  | some x => (let r := sendReply link b ((flitSlot x.2.2 0).drop 16) s; remember src tag r.2 r.1)
  | none =>
    let x := homeEffect b mask s
    let r := sendReply link b x.2 x.1
    remember src tag r.2 r.1
/-- Must a request wait, since a copy owns bytes that it comes to (R127)? -/
def slotWaits (s : State) (b : List Byte) (mask : Option (List Byte)) : Bool :=
  let line := 64 * (slotKey b / 64)
  match mask with
  | some m => (List.range 64).any fun (i : Nat) => enabled m i && copyOwns s (line + i) 1
  | none =>
    if slotKind b == 3 then copyOwns s (slotKey b) (slotSize b)
    else slotKind b < 2 && copyOwns s line 64
/-- Performs slots in order, up to one that waits: those from it on are left. `w` is a write whose MASK slot comes next. -/
def performSlots (link : Nat) : Option (List Byte) → List (List Byte) → State → State × List (List Byte)
  | w, [], s => (s, w.toList)
  | some w, m :: t, s =>
    if slotWaits s w (some m) then (s, w :: m :: t) else performSlots link none t (homeRequest link w (some m) s)
  | none, b :: t, s =>
    if slotKind b == 2 then performSlots link (some b) t s
    else if slotWaits s b none then (s, b :: t)
    else
      let line := 64 * (slotKey b / 64)
      let s := match slotKind b with
        | 0 => (let s := recallBytes line 64 s; (sendReply link b (cohRead s line 64) s).1)
        | 1 => homeRequest link b none s
        | 3 => homeRequest link b none s
        | _ => s
      performSlots link none t s
/-- The slots a link has received are performed as far as they can be. -/
def serveLink (s : State) (l : Link) : State :=
  let r := performSlots l.id none l.held s
  onLink l.id (fun l => { l with held := r.2 }) r.1
/-- The same, of every link. -/
def serveLinks (s : State) : State := s.plat.links.foldl (fun s l => if l.held.isEmpty then s else serveLink s l) s
/-- An acknowledgement: the flits up to ACKSEQ are retired, and the requests whose reply they carried are forgotten. -/
def retireFlits (link ack : Nat) (s : State) : State :=
  match findLink s link with
  | some l =>
    match l.unacked.findIdx? fun f => bytesAt f 4 4 == ack with
    | some i =>
      let done := l.unacked.take (i + 1)
      onPlat (fun p => { p with seen := p.seen.filter fun x => !done.contains x.2.2 })
        (onLink link (fun l => { l with unacked := l.unacked.drop (i + 1), replays := 0 }) s)
    | none => s
  | none => s

/-- FLIT_DATA (R489): a flit in order is taken and acknowledged; a gap or a wrong CRC is answered with a nak, which is a retry;
a flit that has been taken before is acknowledged again. -/
def execFlitData (link : Nat) (flit : List Byte) (s : State) : Out :=
  match findLink s link with
  | some l =>
    if !l.up then .next s
    else if !crcOk flit then .next (sendNak link s)
    else if !flitOk 1 flit then .next s
    else
      let seq := bytesAt flit 4 4
      let s := retireFlits link (bytesAt flit 8 4) s
      if seq == l.rxSeq then
        let slots := (List.range (min 3 (bytesAt flit 1 1))).map (flitSlot flit)
        .next (serveLinks (sendControl 2 link []
          (onLink link (fun l => { l with rxSeq := (l.rxSeq + 1) % 2 ^ 32, held := l.held ++ slots }) s)))
      else if (seq + 2 ^ 32 - l.rxSeq) % 2 ^ 32 < 2 ^ 31 then .next (sendNak link s)
      else .next (sendControl 2 link [] s)
  | none => .next s
/-- A flit of another TYPE comes over a link that is up: a wrong CRC is answered with a nak (R489). -/
def takeFlit (ty link : Nat) (flit : List Byte) (s : State) (go : Link → State) : Out :=
  match findLink s link with
  | some l => .next (if !l.up then s else if !crcOk flit then sendNak link s else if flitOk ty flit then go l else s)
  | none => .next s
/-- FLIT_ACK (R489). -/
def execFlitAck (link : Nat) (flit : List Byte) (s : State) : Out :=
  takeFlit 2 link flit s fun _ => retireFlits link (bytesAt flit 8 4) s

/-- A flit with another SEQ. -/
def resequence (seq : Nat) (f : List Byte) : List Byte :=
  let b := f.take 4 ++ bytesOf 4 seq ++ (f.drop 8).take 244
  b ++ bytesOf 4 (crc32c b).toNat
/-- Does a link reach the module that another one leads to? -/
def sameModule (l x : Link) : Bool := l.peer.any fun u => x.peer == some u || x.routes.any fun r => r.uid == u
/-- A link goes down (R489): its flits are sent again over another link that reaches the same module. -/
def takeDown (link : Nat) (s : State) : State :=
  match findLink s link with
  | some l =>
    let s' := onLink link (fun l => { l with up := false, unacked := [], replays := 0 }) s
    match s'.plat.links.find? fun x => x.up && sameModule l x with
    | some o =>
      let fs := ((List.range l.unacked.length).zip l.unacked).map fun x => (x.2, resequence ((o.txSeq + x.1) % 2 ^ 32) x.2)
      let moved (f : List Byte) : List Byte := ((fs.find? fun x => x.1 == f).map (·.2)).getD f
      let s' := onPlat (fun p => { p with seen := p.seen.map fun x => (x.1, x.2.1, moved x.2.2) })
        (onLink o.id (fun o => { o with txSeq := (o.txSeq + fs.length) % 2 ^ 32, unacked := o.unacked ++ fs.map (·.2) }) s')
      fs.foldl (fun s x => emitFlit o.id x.2 s) s'
    | none => s'
  | none => s
/-- FLIT_NAK (R489): a replay from the first unacknowledged flit, counted; when 16 in a row have failed, the link goes down. -/
def execFlitNak (link : Nat) (flit : List Byte) (s : State) : Out :=
  takeFlit 3 link flit s fun l =>
    if 16 ≤ l.replays then takeDown link s
    else l.unacked.foldl (fun s f => emitFlit link f s) (onLink link (fun l => { l with replays := l.replays + 1, crc := satInc l.crc }) s)
/-- What a discovery flit tells, as functions of its bytes, whose arrangement the manual does not state (assumption 4): a module's
unique ID, the switches on the way to it, and the I/O die reached. -/
def discovered (flit : List Byte) : Route :=
  { uid := Config.digest 23 flit, io := (Config.digest 25 flit).toNat % 4,
    switches := (List.range ((Config.digest 24 flit).toNat % 8)).map fun (i : Nat) => Config.digest 27 (bytesOf 8 i ++ flit) }
/-- FLIT_DISCOVERY (R492): a route is learnt, and its module gets its fabric ID; a link that was down comes up. -/
def execFlitDiscovery (link : Nat) (flit : List Byte) (s : State) : Out :=
  let r := discovered flit
  .next (if flitOk 4 flit && s.plat.dev != .reset then
    onPlat (giveFabric r.uid) (onLink link (fun l =>
      let l := { l with peer := some r.uid, routes := if l.routes.contains r then l.routes else l.routes ++ [r] }
      if l.up then l else { l with up := true, rxSeq := 0, txSeq := 0, replays := 0, held := [] }) s)
  else if (findLink s link).any (·.up) && !crcOk flit then sendNak link s
  else s)
/-- LINK_DOWN (R489). -/
def execLinkDown (link : Nat) (s : State) : Out := .next (takeDown link s)

end Sys2Proof.Machine
end

