-- ==== Sys2Proof/Machine/Matrix.lean ====
section
/-! DEFINITION. The matrix unit: opcodes 0xE0 to 0xE7 and its K steps (R350 to R372, R92, R93). -/
namespace Sys2Proof.Machine
open Sys2Proof

/-! ### Tiles (R352) -/

/-- The zero tile of a name. -/
def zeroTile (n : Nat) : Tile := { name := n, elems := [] }
/-- A bound tile. -/
def findTile (w : Wave) (n : Nat) : Option Tile := w.tiles.find? fun t => t.name == n
/-- An element of a tile; an unbound name holds +0. -/
def tileElem (w : Wave) (n x : Nat) : W32 := Store.get 0 (((findTile w n).map (·.elems)).getD []) x
/-- Changes a tile's elements. -/
def onTile (n : Nat) (f : Store W32 → Store W32) (w : Wave) : Wave :=
  { w with tiles := w.tiles.map fun t => if t.name == n then { t with elems := f t.elems } else t }

/-- The tile that C names in a one-word form. -/
def tileOf (f : RF) : Nat := ctlOf f.c % 8
/-- The tiles a matrix instruction names. -/
def tilesOf : Instr → List Nat
  | .mma _ x => [x.acc.toNat]
  | .mmas _ x => [x.acc.toNat]
  | .mmad _ x => [x.acc.toNat]
  | .mzero f => (List.range 8).filter fun n => f.d.getLsbD n
  | .mrd f => [tileOf f]
  | .mwr f => [tileOf f]
  | .mres f => [tileOf f]
  | _ => []

/-! ### Needs (R354, R357) -/

/-- NSTEP. -/
def nstepOf (x : MmaX) : Nat := if x.nstep == 0#6 then 64 else x.nstep.toNat
/-- The steps of a matrix instruction. -/
def stepsOf : Instr → Nat
  | .mma _ x => nstepOf x
  | .mmas _ x => nstepOf x
  | .mmad _ x => nstepOf x
  | _ => 1
/-- Entries of an A-stream that one step of MMAS takes: KE / 64. -/
def mmasA (x : MmaX) : Nat := if x.pat == 0#2 then 4 else 2
/-- The entries one step takes: stream kind, name, number. -/
def needsOf : Instr → List (Nat × Nat × Nat)
  | .mma _ x => [(0, x.fa.toNat, 1), (1, x.fb.toNat, 1)]
  | .mmad _ x => [(0, x.fa.toNat, 1), (1, x.fb.toNat, 1)]
  | .mmas _ x => [(0, x.fa.toNat, mmasA x), (1, x.fb.toNat, x.terms.toNat + 1), (2, x.fm.toNat, x.terms.toNat + 1)]
  | _ => []
/-- The entries that issued instructions have yet to take from a stream. -/
def claimed (w : Wave) (kind name : Nat) : Nat :=
  w.mcmds.foldl (fun n c => (needsOf c.instr).foldl (fun n q =>
    if q.1 == kind && q.2.1 == name then n + (stepsOf c.instr - c.step) * q.2.2 else n) n) 0
/-- Does a need exceed its avail (R357)? -/
def isDry (w : Wave) (i : Instr) : Bool :=
  (needsOf i).any fun q => match findMs w q.1 q.2.1 with
    | some x => x.entries.length + x.owed < claimed w q.1 q.2.1 + stepsOf i * q.2.2
    | none => true

/-! ### Issue (R356, R357) -/

/-- The matrix instructions queued on the focus wave's sub-core. -/
def queuedMatrix (s : State) : Nat := ((subWaves s).flatMap fun w => w.mcmds).length
/-- Can the tiles be bound: bound already, or enough of the sub-core's 32 free (R352)? -/
def tilesFree (s : State) (ts : List Nat) : Bool :=
  ((subWaves s).flatMap fun w => w.tiles).length + (ts.filter fun n => (findTile s.wave n).isNone).length ≤ 32
/-- Binds tiles at +0. -/
def bindTiles (ts : List Nat) (w : Wave) : Wave :=
  { w with tiles := w.tiles ++ (ts.filter fun n => (findTile w n).isNone).map zeroTile }

/-- Can the matrix unit not take an instruction (R17, R352, R356): a tile it names is awaited, its queue is full, no tile is
free? -/
def matrixFull (i : Instr) (s : State) : Bool :=
  (s.wave.mcmds.any fun c => (tilesOf c.instr).any fun n => (tilesOf i).contains n) || 8 ≤ queuedMatrix s || !tilesFree s (tilesOf i)
/-- Issues a matrix instruction with the values it has read (R357, R358). Its MODE is the wave's at issue: the manual does not
say which MODE a queued step uses when SWR changes it (assumption 15). -/
def matrixR (i : Instr) (vals idxs : List W32) (s : State) : Eff :=
  let w := s.wave
  let ts := tilesOf i
  if isDry w i then .trap { cause := 0x0B, sub := 5, mask := w.all }
  else
    let c : MCmd := { instr := i, pc := w.cur.pc, entry := w.cur.idx, step := 0, vals := vals, idxs := idxs, mode := w.mode }
    .next (onFocus (fun w => { bindTiles ts w with mcmds := w.mcmds ++ [c] }) s)

/-- MRD: its registers are empty until its step (R365). -/
def mrdR (f : RF) (s : State) : Eff :=
  match matrixR (.mrd f) [] [] s with
  | .next t => .next (markDst false f.d.toNat (256 / s.wave.width) s.wave.all t)
  | e => e
/-- MSTAT: its register is empty until its step (R367). -/
def mstatR (f : RF) (s : State) : Eff :=
  match matrixR (.mstat f) [] [] s with
  | .next t => .next (markDst true f.d.toNat 1 0 t)
  | e => e
/-- The bits of a register group in tile order (R365). -/
def groupVals (s : State) (start : Nat) : List W32 :=
  (List.range 256).map fun x => rdV s (start + x / s.wave.width) (x % s.wave.width)
/-- MWR reads its group at issue. -/
def mwrR (f : RF) (s : State) : Eff :=
  matrixR (.mwr f) (groupVals s (match f.a with | .v n => n.toNat | _ => 0)) [] s
/-- MRES (R366): the indices are checked and everything is read at issue. -/
def mresR (f : RF) (s : State) : Eff :=
  let ls := List.range s.wave.width
  let ix := ls.map fun l => BitVec.ofNat 32 (src32 s f.b l)
  let bad := ls.filter fun l => let x := ix.getD l 0; 256 ≤ x.toNat && x != 0xFFFFFFFF#32
  if !bad.isEmpty then .trap { cause := 1, sub := 2, mask := Mask.ofLanes bad }
  else matrixR (.mres f) (ls.map fun l => BitVec.ofNat 32 (src32 s f.a l)) ix s

/-! ### Values in entries (R351, R360, R361) -/

/-- Row-block `r` of an entry. -/
def rowBlock (e : List Byte) (r : Nat) : List Byte := (e.drop (64 * r)).take 64
/-- An operand element of a TYPE: an exact integer, or a value flushed as MODE says (R92). -/
def matVal (mode : W32) (ty x : Nat) : XVal :=
  if ty == 0 then .ofInt (sextN x 8) else if ty == 4 then .ofInt (x % 256 : Nat) else srcF mode.toNat ty x
/-- The values of a dense row-block. -/
def denseRow (mode : W32) (ty : Nat) (b : List Byte) : List XVal :=
  if ty == 8 || ty == 9 then
    (List.range 32).map fun k => matVal mode ty ((b.getD (2 * k) 0).toNat + 256 * (b.getD (2 * k + 1) 0).toNat)
  else (List.range 64).map fun k => matVal mode ty (b.getD k 0).toNat
/-- The exact sum of a list: a zero sum is -0 only where every term is (R75); no terms give +0. -/
def sumX : List XVal → XVal
  | [] => XVal.zero
  | x :: t => t.foldl (XVal.add false) x
/-- The exact sum of a list added to p := 0, as R363 writes it: a zero sum is +0. -/
def sumP (l : List XVal) : XVal := l.foldl (XVal.add false) XVal.zero
/-- The exact sum of the products of two lists. -/
def dotX (a b : List XVal) : XVal := sumX ((a.zip b).map fun x => XVal.mul x.1 x.2)

/-- The pairs of two blocks of a step, and whether their counts differ (R361). -/
def sdbPairs (mode : W32) (a b : List Byte) : XVal × Bool :=
  let ha := sdbHeader a
  let hb := sdbHeader b
  let own (h : SdbBlock) : Option Nat := if h.reserved then none else h.count
  let nanB (h : SdbBlock) : Bool := h.nan
  match own ha, own hb with
  | none, none => (if nanB ha || nanB hb then .nan else .zero, false)
  | ca, cb =>
    let c := min (ca.getD (cb.getD 0)) (cb.getD (ca.getD 0))
    let v (h : SdbBlock) (x : List Byte) : List XVal := (List.range c).map fun k => sdbValue (mode.getLsbD 3) h x k
    (dotX (v ha a) (v hb b), match ca, cb with | some x, some y => x != y | _, _ => false)

/-- acc + p, rounded once (R92). -/
def accumulate (mode : W32) (acc : W32) (p : XVal) : W32 :=
  BitVec.ofNat 32 (resF mode.toNat 10 0 (XVal.add false (decodeF f32 acc.toNat) p))
/-- Is a word an f32 NaN? -/
def isNan32 (x : W32) : Bool := (decodeF f32 x.toNat).isNan

/-- Writes all 256 elements of a tile; a NaN among them is remembered. -/
def putTile (n : Nat) (vals : List W32) (w : Wave) : Wave :=
  { onTile n (fun _ => ((List.range 256).zip vals).foldl (fun t x => Store.set 0 t x.1 x.2) []) w with
    mNan := w.mNan || vals.any isNan32 }

/-- The first `n` entries of a stream, and the wave without them. -/
def takeMs (kind name n : Nat) (w : Wave) : List (List Byte) × Wave :=
  (((findMs w kind name).map (·.entries)).getD [] |>.take n,
   onMs kind name (fun x => { x with entries := x.entries.drop n }.topUp) w)

/-- A step of MMA or MMAD (R360 to R362). -/
def mmaStep (mode : W32) (x : MmaX) (w : Wave) : Wave :=
  let (ea, w) := takeMs 0 x.fa.toNat 1 w
  let (eb, w) := takeMs 1 x.fb.toNat 1 w
  let a := ea.headD []
  let b := eb.headD []
  let n := x.acc.toNat
  if x.sdb then
    let ps := (List.range 256).map fun e => sdbPairs mode (rowBlock a (e / 16)) (rowBlock b (e % 16))
    let w' := putTile n (((List.range 256).zip ps).map fun p => accumulate mode (tileElem w n p.1) p.2.1) w
    { w' with mMism := w'.mMism || ps.any (·.2) }
  else
    let ra := (List.range 16).map fun i => denseRow mode x.aty.toNat (rowBlock a i)
    let rb := (List.range 16).map fun j => denseRow mode x.bty.toNat (rowBlock b j)
    putTile n ((List.range 256).map fun e =>
      accumulate mode (tileElem w n e) (dotX (ra.getD (e / 16) []) (rb.getD (e % 16) []))) w

/-- Nibble `i` of a metadata row (R335). -/
def nibble (row : List Byte) (i : Nat) : Nat := (row.getD (i / 2) 0).toNat / (if i % 2 == 0 then 1 else 16) % 16
/-- A step of MMAS (R363). -/
def mmasStep (mode : W32) (x : MmaX) (w : Wave) : Wave :=
  let terms := x.terms.toNat + 1
  let (ea, w) := takeMs 0 x.fa.toNat (mmasA x) w
  let (eb, w) := takeMs 1 x.fb.toNat terms w
  let (em, w) := takeMs 2 x.fm.toNat terms w
  let n := patN x.pat.toNat
  let m := patM x.pat.toNat
  let row (i : Nat) : List XVal := ea.flatMap fun e => denseRow mode x.aty.toNat (rowBlock e i)
  let rows := (List.range 16).map row
  let cols := (List.range 16).map fun j => (List.range terms).flatMap fun t =>
    let vs := denseRow mode x.bty.toNat (rowBlock (eb.getD t []) j)
    let ms := ((em.getD t []).drop (32 * j)).take 32
    (List.range 64).map fun q => (m * (q / n) + nibble ms q % m, vs.getD q .zero)
  let acc := x.acc.toNat
  putTile acc ((List.range 256).map fun e =>
    let r := rows.getD (e / 16) []
    accumulate mode (tileElem w acc e) (sumP ((cols.getD (e % 16) []).map fun y =>
      XVal.mul (r.getD y.1 .zero) y.2))) w

/-- MRES's step (R366). -/
def mresStep (mode : W32) (n : Nat) (vals idxs : List W32) (w : Wave) : Wave :=
  let prs := idxs.zip vals
  let vs := (List.range 256).map fun e =>
    match (prs.filter fun p => p.1.toNat == e).map fun p => srcF mode.toNat 10 p.2.toNat with
    | [] => (false, tileElem w n e)
    | xs => (true, accumulate mode (tileElem w n e) (sumX xs))
  let w' := putTile n (vs.map (·.2)) w
  { w' with mNan := w.mNan || vs.any fun v => v.1 && isNan32 v.2 }

/-- The matrix status words (Tables 12.3, 12.4). -/
def mstatWord (md : Nat) (w : Wave) : W32 :=
  let bits (l : List (Bool × Nat)) : Nat := l.foldl (fun a b => if b.1 then a + 2 ^ b.2 else a) 0
  let cnt (kind : Nat) : Nat := (List.range 4).foldl (fun a r =>
    a + 16 ^ r * min 8 (((findMs w kind r).map fun x => x.entries.length).getD 0)) 0
  BitVec.ofNat 32 (match md with
    | 2 => cnt 0 + 2 ^ 16 * cnt 1
    | 3 => cnt 2
    | _ => bits (((List.range 8).map fun n => ((findTile w n).isSome, n)) ++
        ((List.range 4).map fun r => ((findMs w 0 r).isSome, 8 + r)) ++
        ((List.range 4).map fun r => ((findMs w 1 r).isSome, 12 + r)) ++
        ((List.range 4).map fun r => ((findMs w 2 r).isSome, 16 + r)) ++ [(w.mMism, 20), (w.mNan, 21)]))

/-- One step of a queued instruction. -/
def applyStep (c : MCmd) (w : Wave) : Wave :=
  match c.instr with
  | .mma _ x => mmaStep c.mode x w
  | .mmad _ x => mmaStep c.mode x w
  | .mmas _ x => mmasStep c.mode x w
  | .mzero f => (tilesOf (.mzero f)).foldl (fun w n => onTile n (fun _ => []) w) w
  | .mrd f =>
    let d := f.d.toNat
    let n := 256 / w.width
    let v := (List.range 256).foldl (fun v x => v.setV (d + x / w.width) (x % w.width) (tileElem w (tileOf f) x)) w
    let v := (List.range n).foldl (fun v j => (List.range 16).foldl (fun v q => v.markFull (d + j) q) v) v
    if f.md == 1#2 then onTile (tileOf f) (fun _ => []) v else v
  | .mwr f => putTile (tileOf f) c.vals w
  | .mres f => mresStep c.mode (tileOf f) c.vals c.idxs w
  | .mstat f =>
    let w' := { w with s := Store.set 0 w.s f.d.toNat (mstatWord f.md.toNat w), sEmpty := w.sEmpty.filter fun r => r != f.d.toNat }
    if f.md == 1#2 then { w' with mNan := false, mMism := false } else w'
  | _ => w

/-- Are all the entries of the instruction's next step present (R358)? -/
def stepReady (w : Wave) (c : MCmd) : Bool :=
  (needsOf c.instr).all fun q => match findMs w q.1 q.2.1 with
    | some x => q.2.2 ≤ x.entries.length
    | none => false

/-- The reserved blocks of the next step of an SDB instruction (R87, R361). SDBRES counts each block of the two entries once,
however many blocks it is paired with; the manual does not say how often (assumption 20). -/
def reservedRows (w : Wave) (c : MCmd) : Nat :=
  let x? := match c.instr with | .mma _ x => some x | .mmad _ x => some x | _ => none
  match x? with
  | none => 0
  | some x =>
    if !x.sdb then 0
    else
      let rows (e : List Byte) : Nat := ((List.range 16).filter fun r => (sdbHeader (rowBlock e r)).reserved).length
      rows ((takeMs 0 x.fa.toNat 1 w).1.headD []) + rows ((takeMs 1 x.fb.toNat 1 w).1.headD [])

/-- The next step of the wave in focus: applied, or under MODE.STRICT stopped before a reserved block (R361). -/
def stepWave (c : MCmd) (rest : List MCmd) (s : State) : State :=
  let bad := reservedRows s.wave c
  if bad != 0 && c.mode.getLsbD 7 then
    let t : Trap :=
      { cause := 0x0E, sub := 3, mask := s.wave.all, addr := 0, pc := c.pc, pc2 := trapPc2 s s.wave c.pc,
        word0 := word0Of c.instr, word1 := word1Of c.instr, hdr := false }
    raiseHalt s.wave.ctx .fatal (some (s.wave.uid, c.entry, t)) s
  else
    let w := applyStep c s.wave
    let c := { c with step := c.step + 1 }
    countOn bad s.wave.die (fun d => { d with sdbres := satAdd bad d.sdbres })
      { s with wave := { w with mcmds := if stepsOf c.instr ≤ c.step then rest else c :: rest } }

/-- The waves of a sub-core whose next step can start; with every lane exited only an instruction that has begun goes on
(R370). -/
def startable (s : State) (die core sub : Nat) : List Wave :=
  (allWaves s).filter fun w => w.onSub die core sub && ctxRuns s w.ctx &&
    match w.mcmds with | c :: _ => (w.liveLanes != 0#64 || c.step != 0) && stepReady w c | [] => false
/-- Round-robin order of wave slot (R358): the lowest slot above the last one served, else the lowest. -/
def nextWave (last : Nat) (ws : List Wave) : Option Wave :=
  let least (l : List Wave) : Option Wave := l.foldl (fun b w => match b with
    | some v => if w.slot < v.slot then some w else some v
    | none => some w) none
  (least (ws.filter fun w => last < w.slot)).orElse fun _ => least ws

/-! ### The arms -/

def execMma (f : RF) (x : MmaX) (s : State) : Out := issueEng (matrixFull (.mma f x)) (.mma f x) s (matrixR (.mma f x) [] [])
def execMmas (f : RF) (x : MmaX) (s : State) : Out := issueEng (matrixFull (.mmas f x)) (.mmas f x) s (matrixR (.mmas f x) [] [])
def execMmad (f : RF) (x : MmaX) (s : State) : Out := issueEng (matrixFull (.mmad f x)) (.mmad f x) s (matrixR (.mmad f x) [] [])
def execMzero (f : RF) (s : State) : Out := issueEng (matrixFull (.mzero f)) (.mzero f) s (matrixR (.mzero f) [] [])
def execMrd (f : RF) (s : State) : Out := issueEng (matrixFull (.mrd f)) (.mrd f) s (mrdR f)
def execMwr (f : RF) (s : State) : Out := issueEng (matrixFull (.mwr f)) (.mwr f) s (mwrR f)
def execMres (f : RF) (s : State) : Out := issueEng (matrixFull (.mres f)) (.mres f) s (mresR f)
def execMstat (f : RF) (s : State) : Out := issueEng (matrixFull (.mstat f)) (.mstat f) s (mstatR f)

/-- K_STEP (R358). -/
def execKStep (die core sub : Nat) (s : State) : Out :=
  let key := 8 * core + sub
  let d := findDie s die
  let last := ((d.rr.find? fun r => r.1 == key).map (·.2)).getD 63
  match nextWave last (startable s die core sub) with
  | none => .next s
  | some w =>
    let s := focusWave w.uid s
    match s.wave.mcmds with
    | [] => .next s
    | c :: rest =>
      let s := stepWave c rest s
      .next (onDie die (fun d => { d with rr := (key, w.slot) :: d.rr.filter fun r => r.1 != key }) s)

end Sys2Proof.Machine
end

