-- ==== Sys2Proof/Machine/Dispatch.lean ====
section
/-! DEFINITION. The meaning of every instruction, compact unit and event: one arm per constructor, one definition per arm. -/
namespace Sys2Proof.Machine
open Sys2Proof

/-- Executes an instruction for the split or access thread in focus, or performs an event. -/
def exec (i : Instr) (s : State) : Host.Outcome State Fault Refusal :=
  match i with
  | .nop f => Sys2Proof.Machine.execNop f s
  | .bra f => Sys2Proof.Machine.execBra f s
  | .brx f => Sys2Proof.Machine.execBrx f s
  | .call f => Sys2Proof.Machine.execCall f s
  | .ret f => Sys2Proof.Machine.execRet f s
  | .rjoin f => Sys2Proof.Machine.execRjoin f s
  | .fuse f => Sys2Proof.Machine.execFuse f s
  | .exit f => Sys2Proof.Machine.execExit f s
  | .yield f => Sys2Proof.Machine.execYield f s
  | .sleep f => Sys2Proof.Machine.execSleep f s
  | .bkpt f => Sys2Proof.Machine.execBkpt f s
  | .trap f => Sys2Proof.Machine.execTrap f s
  | .hret f => Sys2Proof.Machine.execHret f s
  | .migrate f => Sys2Proof.Machine.execMigrate f s
  | .spawn f x => Sys2Proof.Machine.execSpawn f x s
  | .regroup f x => Sys2Proof.Machine.execRegroup f x s
  | .bar f => Sys2Proof.Machine.execBar f s
  | .bararv f => Sys2Proof.Machine.execBararv f s
  | .barwt f => Sys2Proof.Machine.execBarwt f s
  | .waitmem f => Sys2Proof.Machine.execWaitmem f s
  | .srd f => Sys2Proof.Machine.execSrd f s
  | .swr f => Sys2Proof.Machine.execSwr f s
  | .publish f x => Sys2Proof.Machine.execPublish f x s
  | .tlbinv f => Sys2Proof.Machine.execTlbinv f s
  | .cwb f => Sys2Proof.Machine.execCwb f s
  | .cinv f => Sys2Proof.Machine.execCinv f s
  | .vote f => Sys2Proof.Machine.execVote f s
  | .kop f => Sys2Proof.Machine.execKop f s
  | .kpopc f => Sys2Proof.Machine.execKpopc f s
  | .kffs f => Sys2Proof.Machine.execKffs f s
  | .rdfirst f => Sys2Proof.Machine.execRdfirst f s
  | .shfl f => Sys2Proof.Machine.execShfl f s
  | .perm f => Sys2Proof.Machine.execPerm f s
  | .compress f => Sys2Proof.Machine.execCompress f s
  | .expand f => Sys2Proof.Machine.execExpand f s
  | .reduce f => Sys2Proof.Machine.execReduce f s
  | .scan f => Sys2Proof.Machine.execScan f s
  | .segred f => Sys2Proof.Machine.execSegred f s
  | .segscan f => Sys2Proof.Machine.execSegscan f s
  | .vrdx f => Sys2Proof.Machine.execVrdx f s
  | .vwrx f => Sys2Proof.Machine.execVwrx f s
  | .iadd f => Sys2Proof.Machine.execIadd f s
  | .isub f => Sys2Proof.Machine.execIsub f s
  | .iaddc f => Sys2Proof.Machine.execIaddc f s
  | .imul f => Sys2Proof.Machine.execImul f s
  | .imulh f => Sys2Proof.Machine.execImulh f s
  | .imad f => Sys2Proof.Machine.execImad f s
  | .imadw f => Sys2Proof.Machine.execImadw f s
  | .imin f => Sys2Proof.Machine.execImin f s
  | .imax f => Sys2Proof.Machine.execImax f s
  | .iabs f => Sys2Proof.Machine.execIabs f s
  | .iand f => Sys2Proof.Machine.execIand f s
  | .ior f => Sys2Proof.Machine.execIor f s
  | .ixor f => Sys2Proof.Machine.execIxor f s
  | .shl f => Sys2Proof.Machine.execShl f s
  | .shr f => Sys2Proof.Machine.execShr f s
  | .sra f => Sys2Proof.Machine.execSra f s
  | .rot f => Sys2Proof.Machine.execRot f s
  | .bfe f => Sys2Proof.Machine.execBfe f s
  | .bfi f => Sys2Proof.Machine.execBfi f s
  | .popc f => Sys2Proof.Machine.execPopc f s
  | .clz f => Sys2Proof.Machine.execClz f s
  | .brev f => Sys2Proof.Machine.execBrev f s
  | .icmp f => Sys2Proof.Machine.execIcmp f s
  | .sel f => Sys2Proof.Machine.execSel f s
  | .mov f => Sys2Proof.Machine.execMov f s
  | .movi f => Sys2Proof.Machine.execMovi f s
  | .lea f => Sys2Proof.Machine.execLea f s
  | .icvt f => Sys2Proof.Machine.execIcvt f s
  | .idiv f => Sys2Proof.Machine.execIdiv f s
  | .irem f => Sys2Proof.Machine.execIrem f s
  | .fadd f => Sys2Proof.Machine.execFadd f s
  | .fsub f => Sys2Proof.Machine.execFsub f s
  | .fmul f => Sys2Proof.Machine.execFmul f s
  | .ffma f => Sys2Proof.Machine.execFfma f s
  | .fmin f => Sys2Proof.Machine.execFmin f s
  | .fmax f => Sys2Proof.Machine.execFmax f s
  | .fcmp f => Sys2Proof.Machine.execFcmp f s
  | .fclass f => Sys2Proof.Machine.execFclass f s
  | .frnd f => Sys2Proof.Machine.execFrnd f s
  | .frcp f => Sys2Proof.Machine.execFrcp f s
  | .frsq f => Sys2Proof.Machine.execFrsq f s
  | .fsqrt f => Sys2Proof.Machine.execFsqrt f s
  | .fdiv f => Sys2Proof.Machine.execFdiv f s
  | .fex2 f => Sys2Proof.Machine.execFex2 f s
  | .flg2 f => Sys2Proof.Machine.execFlg2 f s
  | .fsin f => Sys2Proof.Machine.execFsin f s
  | .fcos f => Sys2Proof.Machine.execFcos f s
  | .fcvt f => Sys2Proof.Machine.execFcvt f s
  | .ftoi f => Sys2Proof.Machine.execFtoi f s
  | .itof f => Sys2Proof.Machine.execItof f s
  | .qnt f => Sys2Proof.Machine.execQnt f s
  | .dqnt f => Sys2Proof.Machine.execDqnt f s
  | .pack f => Sys2Proof.Machine.execPack f s
  | .unpack f => Sys2Proof.Machine.execUnpack f s
  | .ld f => Sys2Proof.Machine.execLd f s
  | .st f => Sys2Proof.Machine.execSt f s
  | .atom f => Sys2Proof.Machine.execAtom f s
  | .atomn f => Sys2Proof.Machine.execAtomn f s
  | .xadd f => Sys2Proof.Machine.execXadd f s
  | .xrnd f => Sys2Proof.Machine.execXrnd f s
  | .compst f => Sys2Proof.Machine.execCompst f s
  | .expld f => Sys2Proof.Machine.execExpld f s
  | .pref f => Sys2Proof.Machine.execPref f s
  | .fence f => Sys2Proof.Machine.execFence f s
  | .smap f => Sys2Proof.Machine.execSmap f s
  | .sflush f => Sys2Proof.Machine.execSflush f s
  | .sinv f => Sys2Proof.Machine.execSinv f s
  | .tld f x => Sys2Proof.Machine.execTld f x s
  | .tst f x => Sys2Proof.Machine.execTst f x s
  | .hset f => Sys2Proof.Machine.execHset f s
  | .hget f => Sys2Proof.Machine.execHget f s
  | .qpush f => Sys2Proof.Machine.execQpush f s
  | .qpop f => Sys2Proof.Machine.execQpop f s
  | .qstat f => Sys2Proof.Machine.execQstat f s
  | .qld f x => Sys2Proof.Machine.execQld f x s
  | .qst f x => Sys2Proof.Machine.execQst f x s
  | .plaunch f x => Sys2Proof.Machine.execPlaunch f x s
  | .psync f => Sys2Proof.Machine.execPsync f s
  | .qclose f => Sys2Proof.Machine.execQclose f s
  | .cpy f x => Sys2Proof.Machine.execCpy f x s
  | .cpyg f x => Sys2Proof.Machine.execCpyg f x s
  | .cpyh f x => Sys2Proof.Machine.execCpyh f x s
  | .cpys f x => Sys2Proof.Machine.execCpys f x s
  | .cpyq f x => Sys2Proof.Machine.execCpyq f x s
  | .twait f => Sys2Proof.Machine.execTwait f s
  | .tffr f => Sys2Proof.Machine.execTffr f s
  | .tclr f => Sys2Proof.Machine.execTclr f s
  | .mma f x => Sys2Proof.Machine.execMma f x s
  | .mmas f x => Sys2Proof.Machine.execMmas f x s
  | .mmad f x => Sys2Proof.Machine.execMmad f x s
  | .mzero f => Sys2Proof.Machine.execMzero f s
  | .mrd f => Sys2Proof.Machine.execMrd f s
  | .mwr f => Sys2Proof.Machine.execMwr f s
  | .mres f => Sys2Proof.Machine.execMres f s
  | .mstat f => Sys2Proof.Machine.execMstat f s
  | .tex f x => Sys2Proof.Machine.execTex f x s
  | .texg f x => Sys2Proof.Machine.execTexg f x s
  | .texq f => Sys2Proof.Machine.execTexq f s
  | .rast f x => Sys2Proof.Machine.execRast f x s
  | .nopCompact => Sys2Proof.Machine.execNopCompact s
  | .movI32Compact f => Sys2Proof.Machine.execMovI32Compact f s
  | .iaddI32CompactReg f => Sys2Proof.Machine.execIaddI32CompactReg f s
  | .iaddI32CompactImm f => Sys2Proof.Machine.execIaddI32CompactImm f s
  | .isubI32CompactReg f => Sys2Proof.Machine.execIsubI32CompactReg f s
  | .isubI32CompactImm f => Sys2Proof.Machine.execIsubI32CompactImm f s
  | .imulI32CompactReg f => Sys2Proof.Machine.execImulI32CompactReg f s
  | .imulI32CompactImm f => Sys2Proof.Machine.execImulI32CompactImm f s
  | .iandI32CompactReg f => Sys2Proof.Machine.execIandI32CompactReg f s
  | .iandI32CompactImm f => Sys2Proof.Machine.execIandI32CompactImm f s
  | .iorI32Compact f => Sys2Proof.Machine.execIorI32Compact f s
  | .ixorI32Compact f => Sys2Proof.Machine.execIxorI32Compact f s
  | .shlI32Compact f => Sys2Proof.Machine.execShlI32Compact f s
  | .shrN32Compact f => Sys2Proof.Machine.execShrN32Compact f s
  | .sraI32Compact f => Sys2Proof.Machine.execSraI32Compact f s
  | .iminI32Compact f => Sys2Proof.Machine.execIminI32Compact f s
  | .imaxI32Compact f => Sys2Proof.Machine.execImaxI32Compact f s
  | .iaddI64CompactReg f => Sys2Proof.Machine.execIaddI64CompactReg f s
  | .iaddI64CompactImm f => Sys2Proof.Machine.execIaddI64CompactImm f s
  | .popcN32Compact f => Sys2Proof.Machine.execPopcN32Compact f s
  | .clzN32Compact f => Sys2Proof.Machine.execClzN32Compact f s
  | .faddF32Compact f => Sys2Proof.Machine.execFaddF32Compact f s
  | .fsubF32Compact f => Sys2Proof.Machine.execFsubF32Compact f s
  | .fmulF32CompactReg f => Sys2Proof.Machine.execFmulF32CompactReg f s
  | .fmulF32CompactImm f => Sys2Proof.Machine.execFmulF32CompactImm f s
  | .fminF32Compact f => Sys2Proof.Machine.execFminF32Compact f s
  | .fmaxF32Compact f => Sys2Proof.Machine.execFmaxF32Compact f s
  | .faddF64Compact f => Sys2Proof.Machine.execFaddF64Compact f s
  | .fmulF64Compact f => Sys2Proof.Machine.execFmulF64Compact f s
  | .faddF16Compact f => Sys2Proof.Machine.execFaddF16Compact f s
  | .fmulF16Compact f => Sys2Proof.Machine.execFmulF16Compact f s
  | .fsqrtF32Compact f => Sys2Proof.Machine.execFsqrtF32Compact f s
  | .exitCompact k => Sys2Proof.Machine.execExitCompact k s
  | .retCompact k => Sys2Proof.Machine.execRetCompact k s
  | .fuseCompact => Sys2Proof.Machine.execFuseCompact s
  | .yieldCompact => Sys2Proof.Machine.execYieldCompact s
  | .srdCompact f => Sys2Proof.Machine.execSrdCompact f s
  | .blockFetch uid e => Sys2Proof.Machine.execBlockFetch uid e s
  | .rejoinTimeout uid e => Sys2Proof.Machine.execRejoinTimeout uid e s
  | .forcedFuse uid e => Sys2Proof.Machine.execForcedFuse uid e s
  | .stuckWave uid => Sys2Proof.Machine.execStuckWave uid s
  | .missSplit uid e => Sys2Proof.Machine.execMissSplit uid e s
  | .trapDelivery uid => Sys2Proof.Machine.execTrapDelivery uid s
  | .hardwareBreakpoint uid e => Sys2Proof.Machine.execHardwareBreakpoint uid e s
  | .sleepExpiry uid e => Sys2Proof.Machine.execSleepExpiry uid e s
  | .waitmemLatch uid e lane => Sys2Proof.Machine.execWaitmemLatch uid e lane s
  | .waveRelease uid => Sys2Proof.Machine.execWaveRelease uid s
  | .loadReply id quad => Sys2Proof.Machine.execLoadReply id quad s
  | .pageWalk die ctx va want => Sys2Proof.Machine.execPageWalk die ctx va want s
  | .pteBusyRetry die ctx va want => Sys2Proof.Machine.execPteBusyRetry die ctx va want s
  | .atomicAtHome id => Sys2Proof.Machine.execAtomicAtHome id s
  | .directoryRecall line => Sys2Proof.Machine.execDirectoryRecall line s
  | .uncorrectableError line id => Sys2Proof.Machine.execUncorrectableError line id s
  | .correctedError line => Sys2Proof.Machine.execCorrectedError line s
  | .qldStreamEntry uid st => Sys2Proof.Machine.execQldStreamEntry uid st s
  | .qstStreamEntry uid st => Sys2Proof.Machine.execQstStreamEntry uid st s
  | .psyncRelease uid => Sys2Proof.Machine.execPsyncRelease uid s
  | .queueAutoClose uid q => Sys2Proof.Machine.execQueueAutoClose uid q s
  | .copyChunk die core tag => Sys2Proof.Machine.execCopyChunk die core tag s
  | .copyComplete die core tag => Sys2Proof.Machine.execCopyComplete die core tag s
  | .kStep die core sub => Sys2Proof.Machine.execKStep die core sub s
  | .queueFetch die q => Sys2Proof.Machine.execQueueFetch die q s
  | .seqwaitReread die q => Sys2Proof.Machine.execSeqwaitReread die q s
  | .nopPacket die q => Sys2Proof.Machine.execNopPacket die q s
  | .dispatch die q => Sys2Proof.Machine.execDispatch die q s
  | .barrier die q => Sys2Proof.Machine.execBarrier die q s
  | .copy die q => Sys2Proof.Machine.execCopy die q s
  | .signal die q => Sys2Proof.Machine.execSignal die q s
  | .waitListRead die q => Sys2Proof.Machine.execWaitListRead die q s
  | .packetStart die q => Sys2Proof.Machine.execPacketStart die q s
  | .teamPlacement die => Sys2Proof.Machine.execTeamPlacement die s
  | .teamRetire team => Sys2Proof.Machine.execTeamRetire team s
  | .gridRetire grid => Sys2Proof.Machine.execGridRetire grid s
  | .binTimerExpiry die bin => Sys2Proof.Machine.execBinTimerExpiry die bin s
  | .binWavePlacement die => Sys2Proof.Machine.execBinWavePlacement die s
  | .hfqPost uid e => Sys2Proof.Machine.execHfqPost uid e s
  | .hfqFullRetry uid e => Sys2Proof.Machine.execHfqFullRetry uid e s
  | .hfqCompletionPoll uid e => Sys2Proof.Machine.execHfqCompletionPoll uid e s
  | .engineStopAck ctx eng => Sys2Proof.Machine.execEngineStopAck ctx eng s
  | .haltComplete ctx => Sys2Proof.Machine.execHaltComplete ctx s
  | .owedReplyWrite id => Sys2Proof.Machine.execOwedReplyWrite id s
  | .migrationMove team => Sys2Proof.Machine.execMigrationMove team s
  | .migrateLimitExpiry uid => Sys2Proof.Machine.execMigrateLimitExpiry uid s
  | .rastPhase1 die => Sys2Proof.Machine.execRastPhase1 die s
  | .rastTile die => Sys2Proof.Machine.execRastTile die s
  | .quadEmit die => Sys2Proof.Machine.execQuadEmit die s
  | .rastBatchComplete die => Sys2Proof.Machine.execRastBatchComplete die s
  | .textureComplete id => Sys2Proof.Machine.execTextureComplete id s
  | .cdescWrite ctx val => Sys2Proof.Machine.execCdescWrite ctx val s
  | .halt ctx => Sys2Proof.Machine.execHalt ctx s
  | .preempt ctx inc => Sys2Proof.Machine.execPreempt ctx inc s
  | .resume ctx => Sys2Proof.Machine.execResume ctx s
  | .stopwave wsel ctx => Sys2Proof.Machine.execStopwave wsel ctx s
  | .resumewave wsel ctx => Sys2Proof.Machine.execResumewave wsel ctx s
  | .restore ctx => Sys2Proof.Machine.execRestore ctx s
  | .doorbell slot val size => Sys2Proof.Machine.execDoorbell slot val size s
  | .qctxAttach slot ctx => Sys2Proof.Machine.execQctxAttach slot ctx s
  | .qctxDetach slot => Sys2Proof.Machine.execQctxDetach slot s
  | .kick slot => Sys2Proof.Machine.execKick slot s
  | .peerWrite p val => Sys2Proof.Machine.execPeerWrite p val s
  | .registerWrite bar off data => Sys2Proof.Machine.execRegisterWrite bar off data s
  | .readlog => Sys2Proof.Machine.execReadlog s
  | .clrcnt => Sys2Proof.Machine.execClrcnt s
  | .powercap => Sys2Proof.Machine.execPowercap s
  | .sensors => Sys2Proof.Machine.execSensors s
  | .fwstage => Sys2Proof.Machine.execFwstage s
  | .fwcommit => Sys2Proof.Machine.execFwcommit s
  | .attest => Sys2Proof.Machine.execAttest s
  | .topo => Sys2Proof.Machine.execTopo s
  | .reset => Sys2Proof.Machine.execReset s
  | .bar2Access io off data len => Sys2Proof.Machine.execBar2Access io off data len s
  | .flitData link flit => Sys2Proof.Machine.execFlitData link flit s
  | .flitAck link flit => Sys2Proof.Machine.execFlitAck link flit s
  | .flitNak link flit => Sys2Proof.Machine.execFlitNak link flit s
  | .flitDiscovery link flit => Sys2Proof.Machine.execFlitDiscovery link flit s
  | .linkDown link => Sys2Proof.Machine.execLinkDown link s
  | .powerGood tests => Sys2Proof.Machine.execPowerGood tests s
  | .pcieHotReset => Sys2Proof.Machine.execPcieHotReset s
  | .flrSecondary io => Sys2Proof.Machine.execFlrSecondary io s
  | .sensorSample r => Sys2Proof.Machine.execSensorSample r s
  | .securityAlarm why => Sys2Proof.Machine.execSecurityAlarm why s
  | .storePerformed id => Sys2Proof.Machine.execStorePerformed id s
  | .publishComplete id => Sys2Proof.Machine.execPublishComplete id s
  | .forcedUnload ctx ver => Sys2Proof.Machine.execForcedUnload ctx ver s
  | .versionLoad ctx va patches => Sys2Proof.Machine.execVersionLoad ctx va patches s
  | .powerLoss => Sys2Proof.Machine.execPowerLoss s

end Sys2Proof.Machine
end

