-- ==== Sys2Proof/Machine/Sched.lean ====
section
/-! DEFINITION. What moves next (assumption 6): performing an action, and the instruction a split or access thread stands
at (R27, R161 to R163, R297). -/
namespace Sys2Proof.Machine
open Sys2Proof

/-- The state an action leaves: the access-thread flag falls, and the counter of undefined values moves on. -/
def settle (s : State) : State := { s with acc := false, freeCtr := s.freeCtr + 1 }
/-- The same, of an answer. -/
def settleOut : Out → Out
  | .next s => .next (settle s)
  | .fault r => .fault r
  | .refused r => .refused r

/-- TRAPMASK of an encoding that is not an instruction (R503): as for the instruction whose opcode its first word carries, when
only reserved bits or a missing extension make it none; MASK where no predicate can be read (assumption 12). -/
def rejectMask (why : Reject) (w0 : W64) (units : Nat) (s : State) : Mask :=
  if why == .cut || why == .reserved || (why == .tag && units == 2) then
    match parseWords (opOf w0) w0 0 with
    | some i => fateMask s i
    | none => s.wave.cur.mask
  else s.wave.cur.mask
/-- The trap of an encoding that is not an instruction (Table 2.8, R46). -/
def rejectTrap (why : Reject) (w0 : W64) (units : Nat) (s : State) : Raise :=
  { cause := 1, sub := if why == .unassigned then 1 else 2, mask := if s.acc then 0 else rejectMask why w0 units s }

/-- Executes what the executing split or thread stands at in its block. -/
def execAt (s : State) : Out :=
  match blkOf s with
  | none => .next s
  | some b =>
    match b.at (s.wave.isL && !s.acc) (pcOf s) with
    | (.ok i, _, _, _) => exec i s
    | (.bad why, w0, w1, n) =>
      if s.acc then .next (raiseThread (rejectTrap why w0 n s) w0 w1 s)
      else if splitRuns s then .next (raiseSplit (rejectTrap why w0 n s) w0 w1 s) else .next s

/-- Issues from an entry of a sub-core. A split without a block fetches one first (R27); a listed breakpoint comes before the
instruction (R178). -/
def performIssue (d c b e : Nat) (s : State) : Out :=
  match (allWaves s).find? fun w => w.onSub d c b && w.hasEntry e with
  | none => .next s
  | some w =>
    let s := { focusSplit w.uid e s with acc := false }
    match s.wave.cur.blk with
    | none => exec (.blockFetch w.uid e) s
    | some _ => if bpHit s then exec (.hardwareBreakpoint w.uid e) s else execAt s
/-- Issues from a wave's access thread. -/
def performPorter (uid : Nat) (s : State) : Out :=
  let s := { focusWave uid s with acc := true }
  match s.wave.thread with
  | none => .next s
  | some t => match t.blk with
    | none => exec (.blockFetch uid 32) s
    | some _ => execAt s

/-! ### The counts of a cycle (R154, R180, R186, R398, R453) -/

/-- A split's counts go down by one in a cycle in which it runs (R180); a count that has ended stays. -/
def tickSplit (x : Split) : Split :=
  if x.stop then x
  else
    { x with
      deadline := if x.state == .rjwait && x.deadline != 0#32 && x.deadline != 0xFFFFFFFF#32 then x.deadline - 1 else x.deadline,
      sleep := if x.state == .sleep then x.sleep - 1 else x.sleep }
/-- A parked wave's limit counts in every cycle in which the wave is resident and not halted, also while its context is
paused (R450). -/
def tickParked (s : State) (w : Wave) : Wave :=
  if w.live && (findCtx s w.ctx).any fun c => c.state == .running then
    { w with parked := w.parked.map fun p => { p with limit := p.limit.map (· - 1) } }
  else w
/-- A wave's counts, and MODE as SWR has left it for this cycle (R194). -/
def tickWave (s : State) (w : Wave) : Wave :=
  let w := tickParked s w
  if !(w.live && ctxRuns s w.ctx) then w
  else { w.mapSplits tickSplit with mode := w.modeNext.getD w.mode, modeNext := none }
/-- Records wait in their bin while their grid's context runs (R398). -/
def tickBin (s : State) (n : Nat) (b : Bin) : Bin :=
  if (findGrid s b.child).any fun g => ctxRuns s g.ctx then { b with recs := b.recs.map fun r => { r with age := r.age + n } } else b
/-- The next sub-core cycle begins; the fabric's clock runs at two thirds of the D sub-cores' (assumption 9). -/
def tick (s : State) : State :=
  let clock := 2 * (s.cycle + 1) / 3
  let t := { mapWaves (tickWave s) s with bins := s.bins.map (tickBin s (clock - s.clock)) }
  { t with cycle := s.cycle + 1, clock := clock }

/-! ### What may issue (R161, R162, R297, Table 5.8) -/

/-- What a split or thread does when its turn comes: issues (or raises its trap), waits, or waits for walks. -/
inductive Verdict where
  | goes | waits | walks (acts : List Action)
deriving DecidableEq, Repr, Inhabited
/-- What the split of a wave does, found by trying. -/
def trySplit (s : State) (w : Wave) (x : Split) : Verdict :=
  match performIssue w.die w.core w.sub x.idx { s with agenda := [] } with
  | .next t =>
    if (findWave w.uid t).map (·.seq) != some w.seq then .goes else if t.agenda.isEmpty then .waits else .walks t.agenda
  | _ => .waits
/-- What the access thread of a wave does. -/
def tryThread (s : State) (w : Wave) : Verdict :=
  match performPorter w.uid { s with agenda := [] } with
  | .next t =>
    if (findWave w.uid t).bind (·.thread) != w.thread || t.ctxs != s.ctxs then .goes
    else if t.agenda.isEmpty then .waits else .walks t.agenda
  | _ => .waits

/-- The classes of Table 5.8 that an instruction counts in, as numbers; 8 is the vector forms of 0x70 to 0x87, of which one
issues in a cycle. -/
def issueClasses (i : Instr) : List Nat :=
  let i := expand i
  let op := opOf (word0Of i)
  let fp := decide (0x70 ≤ op) && decide (op ≤ 0x87)
  if op ≤ 0x19 then [0]
  else if op ≤ 0x2E then [1]
  else if op ≤ 0x5D || fp then (if (predOf i).2.2 then [2] else if fp then [1, 8] else [1])
  else if op ≤ 0xB0 then [3]
  else if op ≤ 0xC7 then [4]
  else if op ≤ 0xD7 then [5]
  else if op ≤ 0xE7 then [6]
  else [7]
/-- How many of a class issue in a cycle. -/
def classLimit (c : Nat) : Nat := if c == 1 then 2 else 1

/-- A split that goes: wave, entry, the rank of R162's order and AGE, and its classes. -/
structure Cand where
  uid : Nat
  die : Nat
  core : Nat
  sub : Nat
  idx : Nat
  rank : Nat
  born : Nat
  cls : List Nat
deriving DecidableEq, Repr, Inhabited
/-- The candidate comes no later than the other. -/
def Cand.before (a b : Cand) : Bool := a.rank < b.rank || (a.rank == b.rank && a.born ≤ b.born)
/-- Inserts a candidate in R162's order. -/
def putCand (a : Cand) : List Cand → List Cand
  | [] => [a]
  | b :: t => if a.before b then a :: b :: t else b :: putCand a t
/-- The candidates that issue: `n` more, with the classes already used. -/
def pickCands (n : Nat) (used : List Nat) : List Cand → List Cand
  | [] => []
  | a :: t =>
    if n == 0 then []
    else if a.cls.all fun c => used.count c < classLimit c then a :: pickCands (n - 1) (a.cls ++ used) t
    else pickCands n used t

/-- The classes of the instruction a split stands at. -/
def splitClasses (w : Wave) (x : Split) : List Nat :=
  match x.instr w.isL with
  | some i => issueClasses i
  | none => [0]
/-- The sub-cores with a resident wave. -/
def subCores (s : State) : List (Nat × Nat × Nat) := ((allWaves s).map fun w => (w.die, w.core, w.sub)).eraseDups
/-- The issues of a sub-core in one cycle, in order (R162). -/
def subIssues (s : State) (d c b : Nat) : List Action :=
  let cands := ((allWaves s).filter (Wave.onSub d c b)).flatMap fun w =>
    (w.splits.filter fun x => x.blk.isSome && trySplit s w x == .goes).map fun (x : Split) =>
      { uid := w.uid, die := d, core := c, sub := b, idx := x.idx, rank := if 4064 ≤ x.readyCount then 0 else if x.cur then 1 else 2,
        born := x.born, cls := splitClasses w x : Cand }
  (pickCands (if 16 ≤ c then 1 else 4) [] (cands.foldr putCand [])).map fun x => .issue x.die x.core x.sub x.idx
/-- The access instruction of a Porter in one cycle: the thread that issued least recently (R297). -/
def porterIssue (s : State) (d c b : Nat) : List Action :=
  let ws := (allWaves s).filter fun w => w.onSub d c b && (w.thread.any (·.blk.isSome)) && tryThread s w == .goes
  let at_ (w : Wave) : Nat := (w.thread.map (·.issued)).getD 0
  match ws.foldl (fun (x : Option Wave) w => match x with
      | some y => if at_ w < at_ y then some w else some y
      | none => some w) none with
  | some w => [.porter w.uid]
  | none => []

/-- The block fetches of the splits that may issue and of the access threads (R27). -/
def fetches (s : State) : List Action :=
  ((allWaves s).filter fun w => ctxRuns s w.ctx).flatMap fun w =>
    ((w.splits.filter fun x => x.blk.isNone && x.state == .ready).map fun x => Action.event (.blockFetch w.uid x.idx)) ++
    (if w.thread.any fun t => t.blk.isNone && !t.done && !t.atSync && t.fault.isNone then [.event (.blockFetch w.uid 32)] else [])
/-- What a split or thread that does not issue asks for: its forced fuse (R156), its walks. -/
def splitNeeds (s : State) (w : Wave) (x : Split) : List Action :=
  match x.blk with
  | none => []
  | some _ =>
    (if !x.fused && ((x.instr w.isL).any fun i => needsFuse (expand i)) then [.event (.forcedFuse w.uid x.idx)] else []) ++
    (match trySplit s w x with | .walks _ => [.probe w.uid x.idx] | _ => [])
def threadNeeds (s : State) (w : Wave) : List Action :=
  match w.thread with
  | none => []
  | some t => match t.blk with
    | none => []
    | some _ => (match tryThread s w with | .walks l => l | _ => [])

/-- The counts of R159, R161 and CUR, as the cycle finds the split. The present cycle is in the count before the splits are
ranked, so that a split is overdue in the 4,064th cycle in which it is ready: the manual does not say which cycle is the
first (assumption 15). -/
def countSplit (s : State) (w : Wave) (x : Split) : Split :=
  let goes := x.blk.isSome && trySplit s w x == .goes
  { x with readyCount := if goes then x.readyCount + 1 else 0,
           missCount := if (missLanes { focusSplit w.uid x.idx s with acc := false }).isSome then x.missCount + 1 else 0,
           cur := x.cur && goes }
/-- The same of every wave. -/
def countWave (s : State) (w : Wave) : Wave := if w.live && ctxRuns s w.ctx then w.mapSplits (countSplit s w) else w

/-! ### What else may move -/

/-- The events of an access in flight. -/
def pendEvents (s : State) (p : Pending) : List Instr :=
  (if ctxRuns s p.ctx then [] else [.owedReplyWrite p.id]) ++
  match p.kind with
  | .texture => [.textureComplete p.id]
  | .publish _ _ => [.publishComplete p.id]
  | .raster => []
  | k =>
    if isLoad k then ((p.lanes.map fun a => a.lane / 4).eraseDups).map fun q => .loadReply p.id q
    else if isAtomic k then [.atomicAtHome p.id] else [.storePerformed p.id]
/-- The events of a wave's streams, queues, PSYNC and end. -/
def waveEvents (w : Wave) : List Instr :=
  (w.streams.map fun t => if t.isLoad then .qldStreamEntry w.uid t.id else .qstStreamEntry w.uid t.id) ++
  (if w.thread.any (·.atSync) then [.psyncRelease w.uid] else []) ++ (w.queues.map fun q => .queueAutoClose w.uid q.name) ++
  (if w.mcmds.isEmpty then [] else [.kStep w.die w.core w.sub]) ++ (if w.liveLanes == 0#64 then [.waveRelease w.uid] else []) ++
  (if w.parked.any fun p => p.limit == some 0 then [.migrateLimitExpiry w.uid] else [])
/-- The events of a copy tag. -/
def tagEvents (t : Tag) : List Instr :=
  match t.state with
  | .busy => [.copyChunk t.die t.core t.tag, .copyComplete t.die t.core t.tag]
  | .fault => (match t.queue with | some q => [.copy (q / 64) (q % 64)] | none => [])
  | .set => []
/-- The events of a queue. -/
def queueEvents (q : Queue) : List Instr :=
  let d := q.slot / 64
  let n := q.slot % 64
  match q.state with
  | .seqwait => [.seqwaitReread d n]
  | .depwait => [.waitListRead d n, .packetStart d n]
  | .start => (match pktType q with
    | 0 => [.nopPacket d n]
    | 1 => [.dispatch d n]
    | 2 => [.barrier d n]
    | 3 => [.copy d n]
    | _ => [.signal d n])
  | .disabled => []
  | .error => []
  | _ => [.queueFetch d n]
/-- The events of a posted fault (R423). -/
def postedEvents (p : Posted) : List Instr :=
  let e := if p.err then 32 else p.entry
  if p.written then [.hfqCompletionPoll p.uid e] else if p.idx.isNone then [.hfqPost p.uid e, .hfqFullRetry p.uid e]
    else [.hfqPost p.uid e]
/-- The events of a context that halts or comes back. -/
def ctxEvents (s : State) (x : Ctx) : List Instr :=
  match x.state with
  | .halting => ((ctxEngines s x.id).filter fun e => !x.acks.contains e).map (fun e => .engineStopAck x.id e) ++ [.haltComplete x.id]
  | .swapping => [.haltComplete x.id]
  | .restoring => [.restore x.id]
  | _ => []
/-- The events of a die's raster unit. -/
def rastEvents (d : Die) : List Instr :=
  if d.raster.isEmpty then [] else [.rastPhase1 d.id, .rastTile d.id, .quadEmit d.id, .rastBatchComplete d.id]
/-- The mailbox's command (Table 17.5). -/
def mailEvents (p : Platform) : List Instr :=
  if !p.mbGo then []
  else match p.mbCmd with
    | 1 => [.readlog]
    | 2 => [.clrcnt]
    | 3 => [.powercap]
    | 4 => [.sensors]
    | 5 => [.fwstage]
    | 6 => [.fwcommit]
    | 7 => [.attest]
    | 8 => [.topo]
    | 9 => [.reset]
    | _ => []
/-- The events of the engines, in no order that the manual gives. -/
def engineEvents (s : State) : List Instr :=
  s.pend.flatMap (pendEvents s) ++ (allWaves s).flatMap waveEvents ++ s.tags.flatMap tagEvents ++ s.queues.flatMap queueEvents ++
  (s.bins.map fun b => .binTimerExpiry b.die b.num) ++ (s.teams.map fun t => .teamRetire t.id) ++
  (s.grids.map fun g => .gridRetire g.uid) ++ s.posted.flatMap postedEvents ++ s.ctxs.flatMap (ctxEvents s) ++
  s.dies.flatMap rastEvents ++ mailEvents s.plat ++ (s.teams.map fun t => .migrationMove t.id) ++
  (((s.grids.flatMap fun g => g.unplaced.map (·.2)).eraseDups).map fun d => .teamPlacement d) ++
  (((s.bins.map (·.die)).eraseDups).map fun d => .binWavePlacement d)
/-- The list from its `n`th element on, and around. -/
def rotate (n : Nat) (l : List Instr) : List Instr := l.drop n ++ l.take n

/-- The events that come from outside the module, or at a time of their own (assumption 7). -/
def external : Instr → Bool
  | .cdescWrite _ _ | .halt _ | .preempt _ _ | .resume _ | .stopwave _ _ | .resumewave _ _ | .restore _ | .doorbell _ _ _
  | .qctxAttach _ _ | .qctxDetach _ | .kick _ | .peerWrite _ _ | .registerWrite _ _ _ | .bar2Access _ _ _ _ | .flitData _ _
  | .flitAck _ _ | .flitNak _ _ | .flitDiscovery _ _ | .linkDown _ | .powerGood _ | .pcieHotReset | .flrSecondary _
  | .sensorSample _ | .securityAlarm _ | .uncorrectableError _ _ | .correctedError _ | .forcedUnload _ _ | .versionLoad _ _ _
  | .powerLoss | .directoryRecall _ => true
  | _ => false
/-- The actions that come from outside the module. -/
def fromOutside : Action → Bool
  | .event i => external i
  | .hostWrite _ _ | .unload _ _ | .reload _ _ _ | .verdict _ _ => true
  | _ => false
/-- The next input, when its time has come: it stands at the start of the cycle, as the halt line does (step 1 of Table 5.9). -/
def nextInput (s : State) : List Action × State :=
  match s.inputs with
  | [] => ([], s)
  | a :: rest =>
    if !fromOutside a then ([], { s with inputs := rest })
    else if choose s 19 2 == 0 then ([a], { s with inputs := rest }) else ([], s)

/-- A wave's events of steps 4 to 7 of Table 5.9. -/
def lateEvents (w : Wave) : List Instr :=
  (w.splits.flatMap fun x => match x.state, x.waitmem with
    | .sleep, Option.none => if x.sleep == 0 then [.sleepExpiry w.uid x.idx] else []
    | .sleep, some m => m.lanes.map fun a => .waitmemLatch w.uid x.idx a.lane
    | .rjwait, _ => if x.deadline == 0#32 then [.rejoinTimeout w.uid x.idx] else []
    | _, _ => []) ++ [.stuckWave w.uid] ++
  (w.splits.filterMap fun x => if 64 ≤ x.missCount then some (.missSplit w.uid x.idx) else none)
/-- The waves that hold a pending trap. -/
def trapEvents (s : State) : List Instr :=
  (allWaves s).filterMap fun w => if w.splits.any fun x => x.state == .trapq then some (.trapDelivery w.uid) else none

/-- Step 3 of Table 5.9: the counts, then what issues and what the rest asks for. -/
def chooseIssues (s : State) : State :=
  let s := mapWaves (countWave s) s
  let ws := allWaves s
  let issues := (subCores s).flatMap fun p => subIssues s p.1 p.2.1 p.2.2
  let needs := ws.flatMap fun w => (w.splits.filter fun x => x.state == .ready).flatMap (splitNeeds s w)
  let access := (subCores s).flatMap fun p => porterIssue s p.1 p.2.1 p.2.2
  { s with agenda := issues ++ needs ++ access ++ ws.flatMap (threadNeeds s) ++ s.agenda }
/-- The same after the block fetches still wanted, which `n` more rounds may repeat behind their walks. -/
def chooseNext : Nat → State → State
  | 0, s => chooseIssues s
  | n + 1, s => if (fetches s).isEmpty then chooseIssues s else { s with agenda := fetches s ++ .choose n :: s.agenda }
/-- Steps 4 to 7: the groups that have arrived complete, then the late events. -/
def completeAll (s : State) : State :=
  let s := mapWaves (fun w => if w.live && ctxRuns s w.ctx then completeGroups s.cycle w else w) s
  { s with agenda := ((allWaves s).flatMap lateEvents).map Action.event ++ s.agenda }
/-- A split that still needs walks asks for them, and holds the translations it has (R409). -/
def probeAgain (uid e : Nat) (s : State) : Out :=
  match (findWave uid s).bind fun w => (w.splits.find? fun x => x.idx == e).map fun x => (w, x) with
  | some (w, x) => (match trySplit s w x with | .walks _ => performIssue w.die w.core w.sub e s | _ => .next s)
  | none => .next s
/-- The host writes its own memory, at its home (R134); bytes that a copy owns are waited for (R127). -/
def hostWrites (a : Nat) (bs : List Byte) (s : State) : State :=
  if copyOwns s (hostKey a) bs.length then { s with inputs := .hostWrite a bs :: s.inputs } else writeHome s (hostKey a) bs

/-- Performs an action. -/
def perform (a : Action) (s : State) : Out :=
  match a with
  | .issue d c b e => performIssue d c b e s
  | .porter uid => performPorter uid s
  | .event i => exec i s
  | .choose n => .next (chooseNext n s)
  | .complete => .next (completeAll s)
  | .retry => .next (serveLinks (payAll s))
  | .hostWrite a bs => .next (hostWrites a bs s)
  | .unload c v => .next (unloadVersion c v s)
  | .reload c va p => execVersionLoad c va p s
  | .boot => .next (bootDone s)
  | .probe uid e => probeAgain uid e s
  | .verdict id a => .next (publishVerdict id a s)

/-- A cycle of the module: an input, the steps of Table 5.9, then the engines (assumption 6). -/
def newRound (s0 : State) : State :=
  let (ins, s) := nextInput (tick s0)
  let ev (l : List Instr) : List Action := l.map Action.event
  let engines := engineEvents s
  { s with agenda := (if s.plat.bring.isSome then [.boot] else []) ++ ins ++ ev (trapEvents s) ++
      [.choose 3, .complete, .retry] ++ ev (rotate (choose s 18 engines.length) engines) }

/-- One step: the next action of the agenda, a new round when it is empty. -/
def stepBody (s : State) : Out :=
  match s.agenda with
  | [] => .next (settle (newRound s))
  | a :: rest => settleOut (perform a { s with agenda := rest })

/-! ### A word where the machine fetches (assumption 8) -/

/-- A context that runs, with an empty descriptor. -/
def loadCtx : Ctx :=
  { id := 0, descKey := 0, desc := List.replicate 640 0, state := .running, reason := .none, inc := none, acks := [],
    fatal := none, late := [], haltAt := 0, paused := false, nextGid := 1, nextVer := 1, vers := [] }
/-- A team of one wave on a core. -/
def loadTeam (core : Nat) : Team :=
  { id := 0, ctx := 0, grid := 0, index := 0, die := 0, core := core, alloc := 0, size := 8192, off := 0, win := 0, waves := 1,
    bars := [], maps := [], dirty := [] }
/-- A wave that has just been launched: one entry with every lane (R142), the widest of its class. -/
def loadWave (core : Nat) : Wave :=
  let isL := 16 ≤ core
  let width := if isL then 16 else 64
  { Wave.noWave with
    live := true, uid := 0, core := core, width := width, regs := if isL then 128 else 512,
    cur := { Split.empty with mask := Mask.low width, lf := 1 } }

/-- Stores an instruction where the next step fetches: in the block of a resident wave, at its first address, with the
forced fuse of one split done. -/
def loadWord (s : State) (nbits w : Nat) : State :=
  let isL := nbits ≤ 32
  let core := if isL then 16 else 0
  let bytes := bytesOf 16 (w % 2 ^ nbits)
  let words := if isL then (halvesOfBytes bytes).map (fun u => 0#32 ++ u) else wordsOfBytes bytes
  let n := if isL then (decodeUnits (halvesOfBytes bytes)).2.2.2 else (decodeDWords (wordsOfBytes bytes)).2.2.2
  let blk : Blk := { hdr := 0x1000, len := n, live := 0, rejoin := none, eqv := false, yh := false, words := words }
  let wave := loadWave core
  let cur := { wave.cur with pc := blk.first isL, blk := some blk, fused := true }
  { s with
    wave := { wave with cur := cur }, bg := [], acc := false, ctxs := [loadCtx], teams := [loadTeam core],
    agenda := [.issue 0 core 0 0] }

end Sys2Proof.Machine
end

