-- ==== Sys2Proof/Machine/Step.lean ====
section
/-! DEFINITION. One step of the module, and the place of the next instruction. -/
namespace Sys2Proof.Machine
open Sys2Proof

/-- One step: the next action on the agenda. -/
def step (s : State) : Host.Outcome State Fault Refusal := stepBody s

/-- `s` with an instruction stored where `step` fetches its next one. -/
def State.withFetchWord (s : State) (nbits w : Nat) : State := loadWord s nbits w

end Sys2Proof.Machine
end

