-- ==== Sys2Proof/Safety.lean ====
section
/-! DEFINITION. The terms that claims use: a safe run, what an issue leaves alone, what a result writes, and what each
arithmetic instruction's result is by its rule. -/
namespace Sys2Proof.Machine
open Sys2Proof

/-- `k` steps from a state, each answering a next state. -/
def runsSafely : Nat → State → Prop
  | 0, _ => True
  | k + 1, s => ∃ t, step s = .next t ∧ runsSafely k t

/-! ### Reading the state -/

/-- v-register `n` of lane `l` of the wave in focus, as it is stored. -/
def vAt (s : State) (n l : Nat) : W32 := Store.get 0 s.wave.v (64 * n + l)
/-- Is v-register `n` of lane `l` undefined? -/
def vUndef (s : State) (n l : Nat) : Bool := Mask.has (Store.get 0 s.wave.undef n) l
/-- Bit `l` of mask register `n`, as it is stored. -/
def kAt (s : State) (n l : Nat) : Bool := Mask.has (Store.get 0 s.wave.k n) l
/-- A byte of memory: what was last written to the place, or the undefined byte that still stands there (R275). -/
def byteAt (s : State) (a : Nat) : Byte := (rawByte s.raw a).getD (s.mem.read a)
/-- Every byte of memory reads as before. -/
def SameMem (s t : State) : Prop := ∀ a, byteAt t a = byteAt s a

/-- Can the engine an instruction commands not take it now (R17, R260, R325, R356, R466, R469)? -/
def engineFull (i : Instr) (s : State) : Bool :=
  match i with
  | .cpy _ _ => courierFull [] s
  | .cpyg _ _ => courierFull [] s
  | .cpyh _ _ => courierFull [] s
  | .cpys _ x => courierFull [(1, x.str.toNat % 4), (2, x.fm.toNat)] s
  | .cpyq _ x => courierFull [(x.str.toNat / 4, x.str.toNat % 4)] s
  | .mma _ _ => matrixFull i s
  | .mmas _ _ => matrixFull i s
  | .mmad _ _ => matrixFull i s
  | .mzero _ => matrixFull i s
  | .mrd _ => matrixFull i s
  | .mwr _ => matrixFull i s
  | .mres _ => matrixFull i s
  | .mstat _ => matrixFull i s
  | .ld _ => memFull s
  | .st _ => memFull s
  | .atom _ => memFull s
  | .atomn _ => memFull s
  | .xadd _ => memFull s
  | .xrnd _ => memFull s
  | .compst _ => memFull s
  | .expld _ => memFull s
  | .tld _ _ => memFull s
  | .tst _ _ => memFull s
  | .tex _ _ => texFull s
  | .texg _ _ => texFull s
  | .texq _ => texFull s
  | .rast _ _ => rastFull s
  | _ => false
/-- The instruction passes every check that precedes issue (Table 2.8, R17, R53, R156, R157, R161). -/
def Ready (i : Instr) (s : State) : Prop := issueCheck i s (engineFull i s) = .go
/-- An instruction of the machine: a core instruction or a compact unit, no event. -/
def isInstruction (i : Instr) : Bool := encode (expand i) != []

/-! ### Frames -/

/-- A split-table entry before and after an issue: only its address, block, issue times, CUR, SKIP, the translations held for it
and what its TLBINV waited for change (R51, R162, R178, R409, R434). -/
def IssuedCur (c d : Split) : Prop :=
  d = { c with pc := d.pc, blk := d.blk, nextIssue := d.nextIssue, hazards := d.hazards, cur := d.cur, skip := false,
               fused := false, readyCount := 0, missCount := 0, held := [], inval := [] }
/-- The state is as before but for the registers and the issue bookkeeping of the executing split, or of the executing
access thread. -/
def RegFrame (s t : State) : Prop :=
  SameMem s t ∧
  if s.acc then
    ∃ h k : Thread, s.wave.thread = some h ∧ t = { s with wave := { s.wave with thread := some k } } ∧
      k = { h with pc := k.pc, blk := k.blk, regs := k.regs, issued := s.cycle }
  else
    IssuedCur s.wave.cur t.wave.cur ∧
    t = { s with wave := { s.wave with v := t.wave.v, undef := t.wave.undef, s := t.wave.s, k := t.wave.k,
                                       seq := s.wave.seq + 1, cur := t.wave.cur } }
/-- The program counter has moved past the instruction. -/
def Advances (i : Instr) (s t : State) : Prop := pcOf t = pcOf s + BitVec.ofNat 49 (instrLen s.wave.isL i)

/-- No v-register changes. -/
def SameV (s t : State) : Prop := t.wave.v = s.wave.v ∧ t.wave.undef = s.wave.undef
/-- No s-register of the wave or of its access thread changes. -/
def SameS (s t : State) : Prop := t.wave.s = s.wave.s ∧ t.wave.thread.map (·.regs) = s.wave.thread.map (·.regs)
/-- No mask register changes. -/
def SameK (s t : State) : Prop := t.wave.k = s.wave.k

/-- Is register `n` among the `len` registers from `d` on? -/
def inGroup (d len n : Nat) : Bool := d ≤ n && n < d + len
/-- Registers `d`, `d` + 1, … of the lanes of `m` hold what `g` gives; every other v-register and lane keeps its value. -/
def WritesV (s t : State) (m : Mask) (d : Nat) (g : Nat → List W32) : Prop :=
  ∀ n l, l < 64 →
    vAt t n l = (if m.has l && inGroup d (g l).length n then (g l).getD (n - d) 0 else vAt s n l) ∧
    vUndef t n l = (vUndef s n l && !(m.has l && inGroup d (g l).length n))
/-- s-registers `d`, `d` + 1, … hold `xs`; every other keeps its value. -/
def WritesS (s t : State) (d : Nat) (xs : List W32) : Prop :=
  ∀ n, rdS t n = if inGroup d xs.length n then xs.getD (n - d) 0 else rdS s n
/-- The bits of the lanes of `m` of mask register `d` are what `p` gives; every other mask bit keeps its value. Nothing is
written to k0 (R40). -/
def WritesK (s t : State) (d : Nat) (m : Mask) (p : Nat → Bool) : Prop :=
  ∀ n l, l < 64 → kAt t n l = if n == d && d != 0 && m.has l then p l else kAt s n l
/-- An R-format result: per active lane, or once for the scalar form (R42, R209). -/
def WritesDst (f : RF) (g : Nat → List W32) (s t : State) : Prop :=
  if f.sc then WritesS s t f.d.toNat (g 0) ∧ SameV s t else WritesV s t (actOf s f) f.d.toNat g ∧ SameS s t

/-- The destination of a lane, or the scalar destination, as w bits of the instruction's TYPE. -/
def dstBits (f : RF) (t : State) (l : Nat) : Nat :=
  let d := f.d.toNat
  let x (n : Nat) : W32 := if f.sc then rdS t n else vAt t n l
  (if tyRegs f.ty == 2 then (pair64 (x d) (x (d + 1))).toNat else (x d).toNat) % 2 ^ tyBits f.ty
/-- The same, as a value of the TYPE (R209). -/
def dstInt (f : RF) (t : State) (l : Nat) : Int := valTy f.ty (dstBits f t l)

/-! ### Traps -/

/-- The split in focus has raised the trap: it stands in TRAPQ at its own address with the next sequence number, and nothing
else has changed (R164, R165). -/
def TrappedW (s t : State) (cause sub : Nat) (m : Mask) (addr w0 w1 : W64) : Prop :=
  ∃ x : Trap, x.cause = cause ∧ x.sub = sub ∧ x.mask = m ∧ x.addr = addr ∧ x.pc = s.wave.cur.pc ∧
    x.word0 = w0 ∧ x.word1 = w1 ∧
    t = { s with wave := { s.wave with
      seq := s.wave.seq + 1,
      cur := { s.wave.cur with
        state := .trapq, tseq := s.wave.seq + 1, trap := some x, work := .none, skip := false, cur := false, fused := false,
        readyCount := 0, missCount := 0, deadline := 0, held := [] } } }
/-- The same, with the instruction's own words in the trap (R46). -/
def Trapped (s t : State) (cause sub : Nat) (m : Mask) (addr : W64) (i : Instr) : Prop :=
  TrappedW s t cause sub m addr (word0Of i) (word1Of i)

/-! ### Where lanes stand -/

/-- Lane `l` of the wave in focus stands at address `a`: in a split's running lanes or in a deferral. -/
def LaneAt (t : State) (l : Nat) (a : PC) : Prop :=
  (∃ x ∈ t.wave.splits, x.mask.has l = true ∧ x.pc = a) ∨ (∃ d ∈ t.wave.defs, d.mask.has l = true ∧ d.pc = a)
/-- An issue by a split that leaves registers, memory and every other wave as they were; splits and deferrals of the wave may
have changed. -/
def ControlFrame (s t : State) : Prop :=
  t.mem = s.mem ∧ t.raw = s.raw ∧ SameV s t ∧ SameS s t ∧ SameK s t ∧
  t.wave.h = s.wave.h ∧ t.wave.mode = s.wave.mode ∧ t.bg = s.bg ∧
  t.wave.seq = s.wave.seq + 1 ∧ t.wave.exited = s.wave.exited ∧ t.pend = s.pend ∧ t.teams = s.teams ∧ t.ctxs = s.ctxs
/-- The barrier `b` of a wave's team. -/
def teamBar (s : State) (b : Nat) : Option Bar := (findTeam s s.wave.team).map fun x => findBar x b

/-! ### What a step issues -/

/-- The agenda's head is an issue from a split-table entry of a sub-core; `u` is the state with that split in focus. -/
def IssuesFrom (s u : State) : Prop :=
  ∃ d c b e rest w, s.agenda = .issue d c b e :: rest ∧
    ((allWaves s).find? fun w => w.onSub d c b && w.hasEntry e) = some w ∧
    u = { focusSplit w.uid e { s with agenda := rest } with acc := false }
/-- The agenda's head is an issue from a wave's access thread; `u` is the state with that wave in focus. -/
def IssuesThread (s u : State) : Prop :=
  ∃ uid rest, s.agenda = .porter uid :: rest ∧ u = { focusWave uid { s with agenda := rest } with acc := true }
/-- The opcodes that Table 2.7 assigns, 140 in all. -/
def opcodeAssigned (op : Nat) : Bool :=
  op ≤ 0x19 || (0x20 ≤ op && op ≤ 0x2E) || (0x40 ≤ op && op ≤ 0x5D) || (0x70 ≤ op && op ≤ 0x87) ||
  (0xA0 ≤ op && op ≤ 0xB0) || (0xC0 ≤ op && op ≤ 0xC7) || (0xD0 ≤ op && op ≤ 0xD7) || (0xE0 ≤ op && op ≤ 0xE7) ||
  (0xF0 ≤ op && op ≤ 0xF3)

/-! ### Results by rule: integers (R212 to R228) -/

/-- The registers an integer instruction gives lane `l`: a result of its TYPE but for IMADW, LEA, POPC, CLZ and MOVI. -/
def intRegs (i : Instr) (s : State) (l : Nat) : Option (RF × List W32) :=
  let typed (f : RF) (x : Nat) : Option (RF × List W32) := some (f, resRegs f.ty x)
  match i with
  | .iadd f => typed f (wrapSat f.md f.ty (srcInt s f.ty f.a l + srcInt s f.ty f.b l))
  | .isub f => typed f (wrapSat f.md f.ty (srcInt s f.ty f.a l - srcInt s f.ty f.b l))
  | .imul f => typed f (wrapSat f.md f.ty (srcInt s f.ty f.a l * srcInt s f.ty f.b l))
  | .imulh f => typed f (mulHigh f.ty (srcInt s f.ty f.a l * srcInt s f.ty f.b l))
  | .imad f => typed f (wrapSat f.md f.ty (srcInt s f.ty f.a l * srcInt s f.ty f.b l + srcInt s f.ty f.c l))
  | .imin f => typed f (wrapTy f.ty (min (srcInt s f.ty f.a l) (srcInt s f.ty f.b l)))
  | .imax f => typed f (wrapTy f.ty (max (srcInt s f.ty f.a l) (srcInt s f.ty f.b l)))
  | .iabs f => typed f (wrapSat f.md f.ty ((srcInt s f.ty f.a l).natAbs : Nat))
  | .iand f => typed f (srcBits s f.ty f.a l &&& logicB f s l)
  | .ior f => typed f (srcBits s f.ty f.a l ||| logicB f s l)
  | .ixor f => typed f (srcBits s f.ty f.a l ^^^ logicB f s l)
  | .shl f => typed f (shlBits (tyBits f.ty) (srcBits s f.ty f.a l) (shiftCount f.md (tyBits f.ty) (src32 s f.b l)))
  | .shr f => typed f (shrBits (tyBits f.ty) (srcBits s f.ty f.a l) (shiftCount f.md (tyBits f.ty) (src32 s f.b l)))
  | .sra f => typed f (sraBits (tyBits f.ty) (srcBits s f.ty f.a l) (shiftCount f.md (tyBits f.ty) (src32 s f.b l)))
  | .rot f => typed f (rotBits (f.md == 1#2) (tyBits f.ty) (srcBits s f.ty f.a l) (src32 s f.b l))
  | .bfe f => typed f (bfeBits f.ty (srcBits s f.ty f.a l) (src32 s f.b l))
  | .bfi f => typed f (bfiBits (tyBits f.ty) (srcBits s f.ty f.a l) (srcBits s f.ty f.b l) (src32 s f.c l))
  | .brev f => typed f (revBits (tyBits f.ty) (srcBits s f.ty f.a l))
  | .sel f => typed f (if selCond f s l then srcBits s f.ty f.a l else srcBits s f.ty f.b l)
  | .mov f => typed f (srcBits s f.ty f.a l)
  | .icvt f => typed f (wrapSat f.md f.ty (srcInt s (BitVec.ofNat 4 (ctlOf f.c)) f.a l))
  | .imadw f => some (f, resRegs 7 (wrapN (srcInt s f.ty f.a l * srcInt s f.ty f.b l + (src64 s f.c l : Nat)) 64))
  | .lea f =>
    let off := srcInt s f.ty f.b l * (2 ^ (ctlOf f.c) : Nat)
    some (f, resRegs 7 (wrapN (if f.md == 0#2 then (src64 s f.a l : Int) + off else (src64 s f.a l : Int) - off) 64))
  | .popc f => some (f, resRegs 6 (popBits (tyBits f.ty) (srcBits s f.ty f.a l)))
  | .clz f => some (f, resRegs 6 (clzBits (tyBits f.ty) (srcBits s f.ty f.a l)))
  | .movi f => some (moviRF f, moviRegs f.ty f.imm)
  | _ => none

/-! ### Results by rule: floating point (R237 to R249) -/

/-- The registers a floating-point instruction or conversion gives lane `l`. -/
def floatRegs (i : Instr) (s : State) (l : Nat) : Option (RF × List W32) :=
  let typed (f : RF) (x : Nat) : Option (RF × List W32) := some (f, resRegs f.ty x)
  let approx (f : RF) (op : Nat) : Option (RF × List W32) :=
    typed f (flushF (ftzOn s.wave.mode.toNat f.ty.toNat) (fmtOfTy f.ty.toNat)
      (approxF op f.ty.toNat s.wave.mode.toNat (srcX s f.ty f.a l) (srcBits s f.ty f.a l)))
  match i with
  | .fadd f => typed f (resX s f.ty f.md.toNat (XVal.add (f.md == 2#2) (srcX s f.ty f.a l) (srcX s f.ty f.b l)))
  | .fsub f => typed f (resX s f.ty f.md.toNat (XVal.add (f.md == 2#2) (srcX s f.ty f.a l) (srcX s f.ty f.b l).neg))
  | .fmul f => typed f (resX s f.ty f.md.toNat (XVal.mul (srcX s f.ty f.a l) (srcX s f.ty f.b l)))
  | .ffma f => typed f (resX s f.ty f.md.toNat
      (XVal.add (f.md == 2#2) (XVal.mul (srcX s f.ty f.a l) (srcX s f.ty f.b l)) (srcX s f.ty f.c l)))
  | .fdiv f => typed f (resX s f.ty f.md.toNat (divX (srcX s f.ty f.a l) (srcX s f.ty f.b l)))
  | .fsqrt f => typed f (resX s f.ty f.md.toNat (sqrtX (srcX s f.ty f.a l)))
  | .frnd f => typed f (resX s f.ty f.md.toNat (roundIntegral f.md.toNat (srcX s f.ty f.a l)))
  | .fmin f => typed f
      (minMaxF (fmtOfTy f.ty.toNat) false (s.wave.mode.getLsbD 9) (srcFlushed s f.ty f.a l) (srcFlushed s f.ty f.b l))
  | .fmax f => typed f
      (minMaxF (fmtOfTy f.ty.toNat) true (s.wave.mode.getLsbD 9) (srcFlushed s f.ty f.a l) (srcFlushed s f.ty f.b l))
  | .fcvt f => typed f (
      if bitAt (ctlOf f.b) 4 then
        flushF (ftzOn s.wave.mode.toNat f.ty.toNat) (fmtOfTy f.ty.toNat)
          (roundSr (fmtOfTy f.ty.toNat) (srcX s (convTy f) f.a l) (src32 s f.c l))
      else resX s f.ty f.md.toNat (srcX s (convTy f) f.a l))
  | .ftoi f => typed f (ftoiVal f.ty f.md.toNat (srcX s (convTy f) f.a l))
  | .itof f => typed f (resX s f.ty f.md.toNat (.ofInt (srcInt s (convTy f) f.a l)))
  | .frcp f => approx f 0
  | .frsq f => approx f 1
  | .fex2 f => approx f 2
  | .flg2 f => approx f 3
  | .fsin f => approx f 4
  | .fcos f => approx f 5
  | .fclass f => some (f, resRegs 6 (2 ^ classF (fmtOfTy f.ty.toNat) (srcBits s f.ty f.a l)))
  | .pack f => some (f, [BitVec.ofNat 32 ((List.range (packN f.ty)).foldl (fun a j =>
      a + resX s f.ty f.md.toNat (srcF s.wave.mode.toNat 10 (grpReg s f.a j l).toNat) * 2 ^ (32 / packN f.ty * j)) 0)])
  | .unpack f => some (f, (List.range (packN f.ty)).map fun j =>
      BitVec.ofNat 32 (resX s 10 0 (srcF s.wave.mode.toNat f.ty.toNat
        (packedBits s f.ty f.a l / 2 ^ (32 / packN f.ty * j) % 2 ^ (32 / packN f.ty)))))
  | _ => none
/-- The condition of ICMP or FCMP in lane `l`. -/
def compareOf (i : Instr) (s : State) (l : Nat) : Option (RF × Bool) :=
  match i with
  | .icmp f => some (f, icmpCond (ctlOf f.c % 8) (srcInt s f.ty f.a l) (srcInt s f.ty f.b l))
  | .fcmp f => some (f, fcmpCond (ctlOf f.c % 8) (srcX s f.ty f.a l) (srcX s f.ty f.b l))
  | _ => none

/-! ### Results by rule: lanes (R199 to R204) -/

/-- The registers a lane instruction gives lane `l`. -/
def laneRegs (i : Instr) (s : State) (l : Nat) : Option (RF × List W32) :=
  match i with
  | .kpopc f => some (f, resRegs 6 (kpopcLane f s l))
  | .kffs f => some (f, resRegs 6 (kffsVal f s))
  | .rdfirst f =>
    some (f, resRegs f.ty (srcBits s f.ty f.a ((Mask.first (if f.sc then maskOf s else actOf s f)).getD 0)))
  | .shfl f => some (f, resRegs f.ty (srcBits s f.ty f.a (
      match shflFrom f.md l (src32 s f.b l % 64) with
      | some j => if j < 64 && (actOf s f).has j then j else l
      | none => l)))
  | .reduce f => some (f, resRegs f.ty (treeOver f s fun _ => true))
  | .scan f => some (f, resRegs f.ty (treeOver f s (scanKeeps f l)))
  | .segred f => some (f, resRegs f.ty (treeOver f s (inSegment f s l)))
  | .segscan f => some (f, resRegs f.ty (treeOver f s fun p => inSegment f s l p && scanKeeps f l p))
  | _ => none

/-! ### Memory requests (R255 to R274) -/

/-- What a load, store or atomic asks of memory. -/
structure MemReq where
  kind : AccKind
  ord : Nat
  scalar : Bool
  /-- bytes per lane, what translation must allow, and the lanes' addresses -/
  size : Nat
  want : Want
  accs : List (Nat × Nat)
  /-- the long-latency destinations -/
  dst : Nat
  ndst : Nat
  /-- DATA and CMP of a lane -/
  val : Nat → Nat
  cmp : Nat → Nat
  /-- the accesses that break alignment, with the lanes TRAPMASK names -/
  bad : List (Nat × Nat)

/-- A lane's own address and size make its alignment. -/
def misaligned (align : Nat) (accs : List (Nat × Nat)) : List (Nat × Nat) := accs.filter fun a => a.2 % align != 0
/-- The request of an M-format access per lane. -/
def mReq (f : MF) (s : State) (kind : AccKind) (align : Nat) (want : Want) (ndst : Nat) (val : Nat → Nat) : MemReq :=
  let accs := (mLanes s f).map fun l => (l, mEa s f l)
  { kind := kind, ord := f.ord.toNat, scalar := f.sc, size := accSize kind, want := want, accs := accs,
    dst := if ndst = 0 then 0 else f.data.toNat, ndst := ndst, val := val, cmp := fun _ => 0, bad := misaligned align accs }
/-- The request of an A-format access. -/
def aReq (f : AF) (s : State) (kind : AccKind) (refused : List Nat) (ret : Bool) (cmp : Nat → Nat) : MemReq :=
  { kind := kind, ord := f.ord.toNat, scalar := false, size := accSize kind, want := wantOf s true true refused,
    accs := aAccs s f, dst := if ret then f.d.toNat else 0, ndst := if ret then atyRegs f.aty else 0,
    val := atomSrc s f.aty.toNat f.data, cmp := cmp, bad := misaligned (accSize kind) (aAccs s f) }
/-- The request of COMPST or EXPLD: the active lanes at consecutive addresses, the start alone checked for alignment. -/
def cReq (f : MF) (s : State) (load : Bool) : MemReq :=
  let n := accSize (.load f.mty.toNat)
  { kind := if load then .load f.mty.toNat else .store n, ord := f.ord.toNat, scalar := false, size := n,
    want := wantOf s load (!load) [], accs := elements s f,
    dst := if load then f.data.toNat else 0, ndst := if load then mtyRegs f.mty else 0,
    val := if load then fun _ => 0 else fun l => storeVal f.mty.toNat (mData s f l), cmp := fun _ => 0,
    bad := if mEa s f 0 % n = 0 then [] else (Mask.lanes (activeOf s f.k f.kn)).map fun l => (l, mEa s f 0) }
/-- The request of a memory instruction. -/
def memReq (i : Instr) (s : State) : Option MemReq :=
  match i with
  | .ld f => some (mReq f s (.load f.mty.toNat) (accSize (.load f.mty.toNat)) (wantOf s true false []) (mtyRegs f.mty) fun _ => 0)
  | .xrnd f => some (mReq f s (.xrnd f.mty.toNat) 64 (wantOf s true true noHost) (mtyRegs f.mty) fun _ => 0)
  | .st f =>
    let n := accSize (.load f.mty.toNat)
    some (mReq f s (.store n) n (wantOf s false true []) 0 fun l => storeVal f.mty.toNat (mData s f l))
  | .compst f => some (cReq f s false)
  | .expld f => some (cReq f s true)
  | .atom f => some (aReq f s (.atom f.aop.toNat f.aty.toNat true) (atomRefused f.aop.toNat f.aty.toNat) true
      (atomSrc s f.aty.toNat f.cmp))
  | .atomn f => some (aReq f s (.atom f.aop.toNat f.aty.toNat false) (atomRefused f.aop.toNat f.aty.toNat) false
      (atomSrc s f.aty.toNat f.cmp))
  | .xadd f => some (aReq f s (.xadd f.aty.toNat) noHost false fun _ => 0)
  | _ => none
/-- Does the request leave the register awaiting its result in a quad? -/
def MemReq.awaits (r : MemReq) (s : State) (q : Nat) (x : Reg) : Bool :=
  (List.range r.ndst).any fun j =>
    if r.scalar || s.acc then x == .s (r.dst + j) else x == .v (r.dst + j) && r.accs.any fun a => a.1 / 4 == q

/-! ### Performing accesses (R116, R117, R257, R263 to R268) -/

/-- A value of a place's bytes. -/
def placeNat (m : Memory) (key n : Nat) : Nat := natOfBytes (m.readN key n)
/-- Do `n` places from `key` on lie in device, stash or host memory that the module has, each with a byte that is not undefined
(Tables 1.1 and 4.1, R275)? -/
def Plain (s : State) (key n : Nat) : Prop :=
  key < 2 ^ 80 ∧ placeHeld key = true ∧ ∀ r ∈ s.raw, key + n ≤ r.lo ∨ r.lo + r.len ≤ key
/-- What one lane of a store, atomic or XADD leaves in memory. -/
def homeStep (k : AccKind) (m : Memory) (a : LaneAcc) : Memory :=
  match k with
  | .store n => m.writeN a.key (bytesOf n a.val)
  | .tstore4 =>
    let old := placeNat m a.key 1
    m.writeN a.key (bytesOf 1 (if a.cmp == 0 then old / 16 * 16 + a.val % 16 else old % 16 + 16 * (a.val % 16)))
  | .atom aop aty _ => m.writeN a.key (bytesOf (accSize k) (atomNew aop aty (placeNat m a.key (accSize k)) a.val a.cmp))
  | .xadd aty => m.writeN a.key ((xaddVals aty a.val).foldl cellAdd (m.readN a.key 64))
  | _ => m
/-- Are `n` plain places held dirty by no team and bound to no map slot: does their value stand in memory itself? -/
def AtHome (s : State) (team va key n : Nat) : Prop :=
  Plain s key n ∧ (∀ t ∈ s.teams, t.dirty = []) ∧ slotOf s (some team) va = none
/-- Register `j` of a reply's destination, for lane `l`, in the wave that receives it (R260). -/
def replyReg (p : Pending) (w : Wave) (l j : Nat) : W32 :=
  if p.thread then Store.get 0 ((w.thread.map (·.regs)).getD []) (p.dst + j)
  else if p.scalar then Store.get 0 w.s (p.dst + j) else Store.get 0 w.v (64 * (p.dst + j) + l)

/-! ### Copies (R325 to R345) -/

/-- The copy that a Courier instruction asks for. -/
def copyCommand (i : Instr) (s : State) : Option (RF × CopyX × Command) :=
  match i with
  | .cpy f x => some (f, x.x, cpyCommand f x s)
  | .cpyg f x => some (f, x.x, cpygCommand f x s)
  | .cpyh f x => some (f, x.x, cpyhCommand f x s)
  | .cpys f x => some (f, x.x, cpysCommand f x s)
  | .cpyq f x => some (f, x.x, cpyqCommand f x s)
  | _ => none
/-- The units of a copy's next chunk, each with the place of its destination as translated at issue (R325). -/
def chunkUnits (c : Copy) : List (CopyUnit × Nat) :=
  (List.range (min (unitCount c) (chunkStart c (c.next + 1)) - chunkStart c c.next)).map fun i =>
    (unitAt c (chunkStart c c.next + i), placeAt c.dest ((chunkStart c c.next + i) * unitLen c))
/-- What a copy's read asks of translation, with the supervisor right of its split. -/
def readWant (c : Copy) : Want := { srcWant with sup := c.sup }
/-- The bytes a unit moves, as memory holds them: zeros for a unit without a source. -/
def movedBytes (s : State) (die : Nat) (c : Copy) (u : CopyUnit) : List Byte :=
  match u.src with
  | none => List.replicate u.len 0
  | some a => match translate s die c.ctx a u.len (readWant c) with
    | .ok k => s.mem.readN k u.len
    | _ => []
/-- Does memory itself hold every line: no team holds a dirty one? -/
def NoDirty (s : State) : Prop := ∀ t ∈ s.teams, t.dirty = []

/-! ### Matrix instructions (R352 to R367) -/

/-- The values and indices that a matrix instruction reads at issue. -/
def matrixReads (i : Instr) (s : State) : Option (List W32 × List W32) :=
  match i with
  | .mma _ _ => some ([], [])
  | .mmas _ _ => some ([], [])
  | .mmad _ _ => some ([], [])
  | .mzero _ => some ([], [])
  | .mrd _ => some ([], [])
  | .mstat _ => some ([], [])
  | .mwr f => some (groupVals s (match f.a with | .v n => n.toNat | _ => 0), [])
  | .mres f => some ((List.range s.wave.width).map (fun l => BitVec.ofNat 32 (src32 s f.a l)),
      (List.range s.wave.width).map fun l => BitVec.ofNat 32 (src32 s f.b l))
  | _ => none
/-- The head entries of a stream. -/
def headEntry (w : Wave) (kind name k : Nat) : List Byte := (((findMs w kind name).map (·.entries)).getD []).getD k []
/-- The exact sum that a step of a queued instruction adds to element (i, j) of its tile, if it adds one there. -/
def stepSum (c : MCmd) (w : Wave) (i j : Nat) : Option XVal :=
  let dense (x : MmaX) : XVal :=
    dotX (denseRow c.mode x.aty.toNat (rowBlock (headEntry w 0 x.fa.toNat 0) i))
      (denseRow c.mode x.bty.toNat (rowBlock (headEntry w 1 x.fb.toNat 0) j))
  let blocks (x : MmaX) : XVal :=
    (sdbPairs c.mode (rowBlock (headEntry w 0 x.fa.toNat 0) i) (rowBlock (headEntry w 1 x.fb.toNat 0) j)).1
  match c.instr with
  | .mma _ x => some (if x.sdb then blocks x else dense x)
  | .mmad _ x => some (if x.sdb then blocks x else dense x)
  | .mmas _ x =>
    let row := (List.range (mmasA x)).flatMap fun e => denseRow c.mode x.aty.toNat (rowBlock (headEntry w 0 x.fa.toNat e) i)
    some (sumP ((List.range (x.terms.toNat + 1)).flatMap fun t =>
      let vals := denseRow c.mode x.bty.toNat (rowBlock (headEntry w 1 x.fb.toNat t) j)
      let places := ((headEntry w 2 x.fm.toNat t).drop (32 * j)).take 32
      (List.range 64).map fun q =>
        XVal.mul (row.getD (patM x.pat.toNat * (q / patN x.pat.toNat) + nibble places q % patM x.pat.toNat) .zero)
          (vals.getD q .zero)))
  | .mres _ =>
    let hits := (c.idxs.zip c.vals).filter fun p => p.1.toNat == 16 * i + j
    if hits.isEmpty then none else some (sumX (hits.map fun p => srcF c.mode.toNat 10 p.2.toNat))
  | _ => none
/-- Is the instruction one whose steps add to a tile? -/
def addsToTile (c : MCmd) : Bool :=
  match c.instr with
  | .mma _ _ => true
  | .mmad _ _ => true
  | .mmas _ _ => true
  | .mres _ => true
  | _ => false

/-! ### Scalar operands of the system instructions -/

/-- An s-pair operand, and an s-register operand, as numbers. -/
def sPairOf (s : State) (o : Operand) : Nat := match o with | .s n => (rdS64 s n.toNat).toNat | _ => 0
def sWordOf (s : State) (o : Operand) : Nat := match o with | .s n => (rdS s n.toNat).toNat | _ => 0

/-- A vector's message has been sent, is pending when the vector was masked (assumption 44), or waits for writes that come before
it (R487). -/
def MsixSent (v : Nat) (s t : State) : Prop :=
  if s.owed ≠ [] then v ∈ t.plat.due
  else if msixMasked s.plat v then v ∈ t.plat.pba else (msixAt s.plat v 0 8, msixAt s.plat v 8 4) ∈ t.plat.msgs

end Sys2Proof.Machine
end

