-- ==== Sys2Proof/Certificates/Slice0/Obligations.lean ====
section
/-! DEFINITION. What is claimed of the machine: the statements for the provers. -/
open Sys2Proof Sys2Proof.Machine

/-! ### Encodings and the step -/

/-- The worked encodings decode to their instructions. The four encodings of Table 2.14 decode to the instructions the
manual spells out beside them: FFMA in the D-encoding and in the long L form (which drops STALL), LD in the M format,
and the compact IADD with an inline 5. (02_encoding_and_assembly.md Table 2.14, R30, R33, R56, R57) -/
def Obligations.WorkedEncodingsDecode : Prop :=
  let ffma : RF := { stall := 1, ep := 1, k := 2, kn := false, sc := false, d := 10, a := .v 11, b := .s 3, c := .v 12, ty := 10, md := 0 }
  (decodeDWords [0x734900A02E030328#64]).1 = .ok (.ffma ffma) ∧
  (decodeUnits [0x73240A02#32, 0xB80C0CA3#32]).1 = .ok (.ffma { ffma with stall := 0 }) ∧
  (decodeDWords [0xA000014820000402#64]).1 =
    .ok (.ld { ord := 0, ep := 0, k := 0, kn := false, sc := false, strm := false, data := 0x14, base := 0x82, off := 0x40, mty := 2 }) ∧
  (decodeUnits [0x0C030215#32]).1 = .ok (.iaddI32CompactImm { k := 0, sc := false, d := 3, a := 1, b := 5 }) ∧
  expand (.iaddI32CompactImm { k := 0, sc := false, d := 3, a := 1, b := 5 }) =
    .iadd { stall := 0, ep := 0, k := 0, kn := false, sc := false, d := 3, a := .v 1, b := .imm 5, c := .v 0, ty := 2, md := 0 }

/-- Decoding a core instruction's words gives the instruction back. For every well-formed core instruction, with every
operand at every value its encoding admits, and whatever words follow it, the D-encoding decoder reads back exactly
that instruction, its first word, its extension word and its length. (R24, R30, R31, R32, R33, R34, R36, R37) -/
def Obligations.CoreEncodingRoundTrips : Prop :=
  ∀ (i : Instr) (rest : List W64), encode i ≠ [] → formOk i = true →
    decodeDWords (encode i ++ rest) = (.ok i, (encode i).headD 0, (encode i).getD 1 0, (encode i).length)

/-- Decoding an instruction's L-encoding units gives the instruction back. For every compact unit, and for every well-
formed core instruction whose first word has zeros in the bits that Table 2.11 removes, the L-encoding decoder reads
back that instruction, the words in D form that a trap would report, and the number of units. (R55, R56, R57, R58,
02_encoding_and_assembly.md Table 2.11) -/
def Obligations.UnitEncodingRoundTrips : Prop :=
  ∀ (i : Instr) (rest : List W32), encodeUnits i ≠ [] → formOk i = true →
    (∀ w, (encode i).head? = some w → unpackFirst (wordFmtOf (opOf w)) (packFirst (wordFmtOf (opOf w)) w) = w) →
    decodeUnits (encodeUnits i ++ rest) =
      (.ok i, (encode (expand i)).headD 0, (encode (expand i)).getD 1 0, (encodeUnits i).length)

/-- Exactly the opcodes outside Table 2.7 are rejected as unassigned. A D-form word is rejected as unassigned if and only
if its opcode, bits 63 to 56, is not one of the 140 of Table 2.7, whatever its other bits and whatever follows it.
(R44, 02_encoding_and_assembly.md Table 2.7, Table 2.8) -/
def Obligations.UnassignedOpcodesRejected : Prop :=
  ∀ (w : W64) (x : Option W64), decodeWords w x = .bad .unassigned ↔ opcodeAssigned (w.extractLsb' 56 8).toNat = false

/-- A step runs the instruction that the executing split or thread stands at. When the agenda's head is an issue from a
split whose block holds, at the split's address, words that decode to an instruction, and no breakpoint register is
due there, the step is that instruction's execution with the split in focus; the same for an access thread; and an
event at the head is executed itself. Around the execution the step only takes the head off the agenda, lowers the
access-thread flag and advances the counter of undefined values. (R27, R162, R178, R297) -/
def Obligations.StepRunsDecodedInstruction : Prop :=
  (∀ (s u : State) (b : Blk) (i : Instr) (w0 w1 : W64) (n : Nat), IssuesFrom s u → u.wave.cur.blk = some b →
    bpHit u = false → b.at u.wave.isL u.wave.cur.pc = (.ok i, w0, w1, n) → step s = settleOut (exec i u)) ∧
  (∀ (s u : State) (h : Thread) (b : Blk) (i : Instr) (w0 w1 : W64) (n : Nat), IssuesThread s u → u.wave.thread = some h →
    h.blk = some b → b.at false h.pc = (.ok i, w0, w1, n) → step s = settleOut (exec i u)) ∧
  (∀ (s : State) (i : Instr) (rest : List Action), s.agenda = .event i :: rest →
    step s = settleOut (exec i { s with agenda := rest })) ∧
  (∀ s : State, settle s = { s with acc := false, freeCtr := s.freeCtr + 1 })

/-- A word that is no instruction raises ILLOP in the split that reaches it. When a split that may issue stands at words
that its decoder rejects, the step raises ILLOP for it, UNASSIGNED for an unassigned code and RESERVED otherwise, with
the words in D form in TRAPWORD0 and TRAPWORD1. Where only reserved bits, a missing extension or its tags make the
words none, TRAPMASK is that of the instruction whose opcode they carry: the active set, or the split's MASK for the
scalar form or a whole-wave instruction; for any other words it is the split's MASK, the model's choice (assumption
12). (R45, R46, R55, R503, 02_encoding_and_assembly.md Table 2.8, notes/assumptions/12.md) -/
def Obligations.UndecodableWordTraps : Prop :=
  ∀ (s u : State) (b : Blk) (why : Reject) (w0 w1 : W64) (n : Nat), IssuesFrom s u → u.wave.cur.blk = some b →
    b.at u.wave.isL u.wave.cur.pc = (.bad why, w0, w1, n) → splitRuns u = true →
    ∃ t m, step s = .next (settle t) ∧ TrappedW u t 1 (if why = .unassigned then 1 else 2) m 0 w0 w1 ∧
      (∀ i, why = .cut ∨ why = .reserved ∨ (why = .tag ∧ n = 2) → parseWords (opOf w0) w0 0 = some i →
        m = if (predOf (expand i)).2.2 || wholeWord (word0Of (expand i)) then u.wave.cur.mask
          else activeOf u (predOf (expand i)).1 (predOf (expand i)).2.1) ∧
      (parseWords (opOf w0) w0 0 = none ∨ why = .unassigned ∨ (why = .tag ∧ n ≠ 2) → m = u.wave.cur.mask)

/-- A block is executed only after its header and CHK have been checked. A block that a fetch accepts was opened by a
header word with marker 0xB, a LEN of at least 1 and a zero reserved field, has LEN words of 8 bytes on a D-core and
LEN units of 4 bytes on an L-core, and the header's CHK is the CRC-16 of their bytes; on an L-core two units with the
tag 00 of a header half carry that word. The entry into the block leaves the split at its first instruction, one word
or two units behind the header's address. (R25, R26, R27, R55, R56) -/
def Obligations.FetchedBlockIsChecked : Prop :=
  ∀ (s u : State) (sup : Bool) (hdr : PC) (b : Blk), fetchBlock s s.wave.isL sup hdr = (u, .ok b) →
    b.len ≠ 0 ∧ b.words.length = b.len ∧
    (∃ w : W64, w.extractLsb' 60 4 = 0xB#4 ∧ (w.extractLsb' 52 8).toNat = b.len ∧ w.extractLsb' 16 6 = 0#6 ∧
      b = headerBlk hdr w b.words ∧
      crc16 (b.words.flatMap fun x => bytesOf (if s.wave.isL then 4 else 8) x.toNat) = w.extractLsb' 0 16 ∧
      (s.wave.isL = true → ∃ x y : W32, unitTag x = 0 ∧ unitTag y = 0 ∧ w = unpackHeader (joinUnits x y))) ∧
    (enterBlock b s).wave.cur.pc = hdr + (if s.wave.isL then 2 else 1) ∧ u.wave = s.wave

/-- A split without a block fetches the one at its address and stands at its first instruction. BLOCK_FETCH, for a split
that may issue and has no block: when the block at its address passes its checks and no older copy of it is held, the
split enters that block at its first instruction; when the header word fails them, the split raises ILLOP RESERVED
with the header word in TRAPWORD0 and its MASK in TRAPMASK (both the model's choice, assumption 13). No byte of memory
changes but by the write-back of dirty lines that the fetch recalls. (R24, R27, R412, R435, notes/assumptions/13.md) -/
def Obligations.BlockFetchEntersBlock : Prop :=
  ∀ (uid e : Nat) (s u : State), hasWave uid s = true → e ≠ 32 → u = { focusSplit uid e s with acc := false } →
    u.wave.cur.idx = e → u.wave.cur.blk = none → splitRuns u = true →
    (∀ v b, fetchBlock u u.wave.isL u.wave.cur.h u.wave.cur.pc = (v, .ok b) → heldCopy u u.wave.cur.pc = none →
      ∃ t, exec (.blockFetch uid e) s = .next t ∧ t.wave.cur.blk = some b ∧ t.wave.cur.pc = b.first u.wave.isL ∧ SameMem v t) ∧
    (∀ v w, fetchBlock u u.wave.isL u.wave.cur.h u.wave.cur.pc = (v, .bad w) →
      ∃ t x, exec (.blockFetch uid e) s = .next t ∧ t.wave.cur.state = .trapq ∧ t.wave.cur.trap = some x ∧ x.cause = 1 ∧
        x.sub = 2 ∧ x.mask = u.wave.cur.mask ∧ x.word0 = w ∧ x.pc = u.wave.cur.pc ∧ SameMem v t) ∧
    ((∀ y ∈ s.teams, y.dirty = []) → ∀ v x, fetchBlock u u.wave.isL u.wave.cur.h u.wave.cur.pc = (v, x) → SameMem s v)

/-! ### Before issue -/

/-- When an instruction of a split issues. An instruction of a split passes the checks before issue exactly when: the wave
is resident; the split has running lanes, is READY, not stopped, past its issue time, in a running context, not parked
and behind no access that its own TLBINV waits for; decode raises nothing; a whole-wave instruction has been through
the forced fuse and has every lane of the wave active; no handler of the wave bars a register it shares; fewer than
2^31 issues separate it from the oldest pending trap; the engine it names can take a command; no source marked trap-
if-empty is empty; and no source or destination awaits a result. (R17, R45, R51, R53, R156, R157, R161, R164, R419) -/
def Obligations.IssueConditions : Prop :=
  ∀ (i : Instr) (s : State), s.acc = false →
    (Ready i s ↔
      s.wave.live = true ∧ splitRuns s = true ∧ fateOf s i = none ∧ (needsFuse (expand i) = true → s.wave.cur.fused = true) ∧
      (wholeChecked (expand i) = true →
        s.wave.cur.mask &&& s.wave.all = s.wave.all ∧
        (if (predOf (expand i)).2.1 then ~~~rdK s (predOf (expand i)).1.toNat else rdK s (predOf (expand i)).1.toNat) &&& s.wave.all
          = s.wave.all) ∧
      ¬ (anyHandler s.wave = true ∧ s.wave.cur.h = false ∧
        ((∃ r ∈ srcsAt s (expand i), sharedReg r.1 = true) ∨ (∃ r ∈ dstsAt s (expand i), sharedReg r = true))) ∧
      ¬ (s.wave.cur.h = false ∧ seqFull s.wave = true) ∧ engineFull i s = false ∧
      (∀ r ∈ srcsAt s (expand i), emptyAny s r.1 = false) ∧ (∀ r ∈ dstsAt s (expand i), emptyAny s r = false))

/-- An instruction that decode rejects raises ILLOP with its subcause and TRAPMASK; IDIV and IREM are unimplemented. For
every instruction, core or compact, in a split that may issue: when decode finds a subcause, the instruction raises
ILLOP with it in that split, before the forced fuse and whatever its operands hold, with TRAPMASK the active set, or
the split's MASK for the scalar form and for an instruction that needs the whole wave, and nothing else changes. A
well-formed IDIV or IREM with its registers in range raises ILLOP, subcause UNIMPL, whatever its operands, and writes
nothing; under MODE.COMPAT bit 2 the subcause is UNASSIGNED. That trap is the whole effect these two instructions
have. (R45, R46, R230, R503) -/
def Obligations.MalformedInstructionTraps : Prop :=
  ∀ (i : Instr) (s : State), s.wave.live = true → s.acc = false → splitRuns s = true →
    (∀ sub, isInstruction i = true → fateOf s i = some sub →
      ∃ t, exec i s = .next t ∧
        Trapped s t 1 sub (if (predOf (expand i)).2.2 || wholeWord (word0Of (expand i)) then s.wave.cur.mask
          else activeOf s (predOf (expand i)).1 (predOf (expand i)).2.1) 0 i) ∧
    (∀ f, i = .idiv f ∨ i = .irem f → formOk i = true → contextOk s i i = true →
      ∃ t, exec i s = .next t ∧
        Trapped s t 1 (if s.wave.mode.getLsbD 10 then 1 else 3) (if f.sc then s.wave.cur.mask else actOf s f) 0 i)

/-- A whole-wave instruction first makes its split wait for the wave. An instruction that needs the whole wave, FUSE,
REGROUP and HRET included, reached by a split that has not been through the forced fuse and has no pending deferral:
nothing issues, and the split, with the held deferrals of its address taken in, enters FFWAIT (the cycle's step 4 then
fuses the wave's complete groups). With a pending deferral the running lanes stop as a held deferral and the pending
path runs. (R156, R148, R149) -/
def Obligations.ForcedFuseGathersSplit : Prop :=
  ∀ (i : Instr) (s : State), isInstruction i = true → needsFuse (expand i) = true → s.wave.live = true → s.acc = false →
    splitRuns s = true → fateOf s i = none → s.wave.cur.fused = false →
    (pendingOf s.wave s.wave.cur.idx = none →
      ∃ w, w = takeHeld s.wave ∧
        exec i s = .next { s with wave := { w with cur := { w.cur with state := .ffwait, cur := false } } }) ∧
    (∀ d, pendingOf s.wave s.wave.cur.idx = some d →
      ∃ t, exec i s = .next t ∧ t.wave.cur.mask = d.mask ∧ t.wave.cur.pc = d.pc ∧ t.wave.cur.state = .ready ∧
        t.wave.seq = s.wave.seq ∧ SameV s t ∧ SameS s t ∧ SameK s t ∧ SameMem s t)

/-- Empty sources and partial waves trap before anything issues, and an instruction that is not ready changes nothing. For
every instruction of a split that may issue, well formed and past the forced fuse: an instruction checked for the
whole wave raises CONVERGE, PARTIAL, with the split's MASK, when a lane of the wave has exited or is inactive.
Otherwise nothing changes while the wave's handler or the limit of its issue counter bars it (which never bars the
handler's own split), or while its engine cannot take the command or, for a command of an engine, a destination awaits
an earlier producer; then a source whose EP bit is 1 and that is empty in a quad of the split raises EMPTYREG with
TRAPMASK naming the lanes of the quads that hold such a source empty; and when every empty source has EP 0, or a
destination awaits a producer, nothing changes at all. (R17, R19, R53, R157, R164, R419) -/
def Obligations.TrapsBeforeIssue : Prop :=
  ∀ (i : Instr) (s : State), isInstruction i = true → s.wave.live = true → s.acc = false → splitRuns s = true →
    fateOf s i = none → (needsFuse (expand i) = true → s.wave.cur.fused = true) →
    (wholeChecked (expand i) = true →
      (s.wave.cur.mask &&& s.wave.all ≠ s.wave.all ∨
        (if (predOf (expand i)).2.1 then ~~~rdK s (predOf (expand i)).1.toNat else rdK s (predOf (expand i)).1.toNat)
          &&& s.wave.all ≠ s.wave.all) →
      ∃ t, exec i s = .next t ∧ Trapped s t 3 1 s.wave.cur.mask 0 i) ∧
    ((wholeChecked (expand i) = true → s.wave.cur.mask &&& s.wave.all = s.wave.all ∧
        (if (predOf (expand i)).2.1 then ~~~rdK s (predOf (expand i)).1.toNat else rdK s (predOf (expand i)).1.toNat)
          &&& s.wave.all = s.wave.all) →
      (heldByHandler s (expand i) = true → s.wave.cur.h = false ∧ exec i s = .next s) ∧
      (engineFull i s = true ∨ engineAwaits s (expand i) = true → exec i s = .next s) ∧
      (∀ m, heldByHandler s (expand i) = false → engineFull i s = false → engineAwaits s (expand i) = false → emptyTrapMask s (expand i) = some m → ∃ t, exec i s = .next t ∧ Trapped s t 2 0 m 0 i) ∧
      (emptyTrapMask s (expand i) = none → awaits s (expand i) = true → exec i s = .next s))

/-! ### Integer and address arithmetic -/

/-- What the integer instructions write, and that they write nothing else. IADD, ISUB, IMUL, IMULH, IMAD, IMADW, IMIN,
IMAX, IABS, IAND, IOR, IXOR, SHL, SHR, SRA, ROT, BFE, BFI, POPC, CLZ, BREV, SEL, MOV, MOVI, LEA and ICVT (R216, R217,
R224 and R228 too), and every compact unit that stands for one of them, vector or scalar, in a split or in access
code: once the checks before issue pass, the instruction completes; each active lane's destination, or the scalar
destination once, holds the rule's result, extended into its register or pair; every other register, lane and mask
bit, every byte of memory and all other state are as before; and the program counter moves past the instruction.
(R209, R212, R214, R215, R218, R219, R220, R221, R222, R225, R226, R227) -/
def Obligations.IntegerResults : Prop :=
  ∀ (i : Instr) (s : State) (f : RF) (g : Nat → List W32), (∀ l, intRegs (expand i) s l = some (f, g l)) → Ready i s →
    ∃ t, exec i s = .next t ∧ WritesDst f g s t ∧ SameK s t ∧ RegFrame s t ∧ Advances i s t

/-- IMIN and IMAX. Once the checks pass, IMIN or IMAX completes, and the destination of each active lane, or the scalar
destination, read back as a value of its TYPE, is the smaller or the larger of A and B read as values of that TYPE,
signed or unsigned as TYPE says. (R216) -/
def Obligations.MinMaxWriteSmallerLarger : Prop :=
  ∀ (f : RF) (s : State), f.ty.toNat < 8 →
    (Ready (.imin f) s → ∃ t, exec (.imin f) s = .next t ∧
      ∀ l, (f.sc = true ∨ (actOf s f).has l = true) → dstInt f t l = min (srcInt s f.ty f.a l) (srcInt s f.ty f.b l)) ∧
    (Ready (.imax f) s → ∃ t, exec (.imax f) s = .next t ∧
      ∀ l, (f.sc = true ∨ (actOf s f).has l = true) → dstInt f t l = max (srcInt s f.ty f.a l) (srcInt s f.ty f.b l))

/-- IADD and ISUB wrap or saturate. The result of IADD or ISUB, read back as a value of its TYPE, is with MOD 00 congruent
to the exact sum or difference modulo 2^w, and with MOD 01 the exact value clamped to the TYPE's range; where the
exact value lies in that range both give it. (R212, R209) -/
def Obligations.AddSubtractWrapOrSaturate : Prop :=
  ∀ (f : RF) (s : State) (sub : Bool), f.ty.toNat < 8 → Ready (if sub then .isub f else .iadd f) s →
    ∃ t, exec (if sub then .isub f else .iadd f) s = .next t ∧
      ∀ l, (f.sc = true ∨ (actOf s f).has l = true) →
        let x := if sub then srcInt s f.ty f.a l - srcInt s f.ty f.b l else srcInt s f.ty f.a l + srcInt s f.ty f.b l
        minTy f.ty ≤ dstInt f t l ∧ dstInt f t l ≤ maxTy f.ty ∧
        (f.md = 0#2 → ((2 ^ tyBits f.ty : Nat) : Int) ∣ dstInt f t l - x) ∧
        (f.md ≠ 0#2 → dstInt f t l = max (minTy f.ty) (min (maxTy f.ty) x)) ∧
        (minTy f.ty ≤ x → x ≤ maxTy f.ty → dstInt f t l = x)

/-- IADDC adds and subtracts with a carry in a mask register. IADDC completes once the checks pass. In each active lane
the destination d and the carry out satisfy a + b + cin = d + 2^w * cout when MOD is 00, and a - b - cin = d - 2^w *
borrow when it is 01, with cin the lane's bit of k[C] before, or 0 for C = k0; the carry out is written to the lane's
bit of k[C], other lanes' bits and other mask registers keep their values, a write to k0 is discarded, and nothing
else changes. (R213) -/
def Obligations.CarryChain : Prop :=
  ∀ (f : RF) (c : BitVec 4) (s : State), f.c = .mask c → Ready (.iaddc f) s →
    ∃ (t : State) (cout : Nat → Bool), exec (.iaddc f) s = .next t ∧ RegFrame s t ∧ Advances (.iaddc f) s t ∧ SameS s t ∧
      WritesK s t c.toNat (actOf s f) cout ∧
      (∀ n l, l < 64 → ((actOf s f).has l && inGroup f.d.toNat (tyRegs f.ty) n) = false → vAt t n l = vAt s n l) ∧
      ∀ l, (actOf s f).has l = true →
        let cin : Int := if c ≠ 0#4 ∧ (rdK s c.toNat).has l = true then 1 else 0
        let out : Int := if cout l then 1 else 0
        let a : Int := (srcBits s f.ty f.a l : Nat)
        let b : Int := (srcBits s f.ty f.b l : Nat)
        if f.md = 1#2 then a - b - cin = (dstBits f t l : Int) - (2 ^ tyBits f.ty : Nat) * out
        else a + b + cin = (dstBits f t l : Int) + (2 ^ tyBits f.ty : Nat) * out

/-- ICMP and FCMP write mask bits, or 1 or 0. ICMP and FCMP, once the checks pass, complete. With S = 0 each active lane's
bit of k[D] becomes the condition on A and B, compared as TYPE says (for FCMP flushed, with unordered conditions), or
its conjunction or disjunction with the old bit as MOD says; other lanes' bits keep their values, and k0 discards the
write. With S = 1 the s-register D receives 1 or 0. Nothing else changes. (R223, R240, R40, R210) -/
def Obligations.CompareResults : Prop :=
  ∀ (i : Instr) (s : State) (f : RF) (c : Nat → Bool), (∀ l, compareOf i s l = some (f, c l)) → Ready i s →
    ∃ t, exec i s = .next t ∧ RegFrame s t ∧ Advances i s t ∧ SameV s t ∧
      (f.sc = true → SameK s t ∧ WritesS s t f.d.toNat [if c 0 then 1 else 0]) ∧
      (f.sc = false → SameS s t ∧ WritesK s t f.d.toNat (actOf s f) fun l =>
        combine f.md.toNat ((rdK s f.d.toNat).has l) (c l))

/-! ### Floating point -/

/-- What the floating-point instructions and conversions write, and that they write nothing else. FADD, FSUB, FMUL, FFMA,
FDIV, FSQRT, FRND, FMIN, FMAX, FCVT, FTOI, ITOF, FCLASS, PACK, UNPACK (R249), FRCP, FRSQ, FEX2, FLG2, FSIN and FCOS,
and every compact unit that stands for one of them, vector or scalar: once the checks pass, the instruction completes;
each active lane's destination, or the scalar one, holds the exact result of the flushed sources rounded once under
MOD (FTOI saturates, FCVT with .sr rounds stochastically, FCLASS gives one class bit, PACK and UNPACK the elements in
order); nothing else changes. The last six give bits that R243's special cases fix or that are a free value of the
model within R244's bound (notes/assumptions/2.md). (R236, R237, R238, R239, R241, R242, R243, R244, R245, R246, R247,
R248) -/
def Obligations.FloatResults : Prop :=
  ∀ (i : Instr) (s : State) (f : RF) (g : Nat → List W32), (∀ l, floatRegs (expand i) s l = some (f, g l)) → Ready i s →
    ∃ t, exec i s = .next t ∧ WritesDst f g s t ∧ SameK s t ∧ RegFrame s t ∧ Advances i s t

/-- Rounding a value of a format to that format changes nothing. For every format of Table 3.1 (f64, f32, f16, bf16, e5m2,
e4m3, e2m1) and every rounding mode, decoding a bit pattern that is no NaN and rounding its value back to the format
gives the same bits; a NaN gives the format's canonical NaN. (R71, R73, R77) -/
def Obligations.RoundingFixesRepresentables : Prop :=
  ∀ (f : Fmt) (rnd x : Nat), f ∈ [f64, f32, f16, bf16, e5m2, e4m3, e2m1] → x < 2 * f.signBit true → rnd < 4 →
    roundF f rnd (decodeF f x) = if (decodeF f x).isNan then roundF f rnd .nan else x

/-- QNT and DQNT convert fully active block groups. QNT and DQNT, when every block group of the wave is wholly active or
wholly inactive in the split and no operand check fails, complete: the lanes of each active group hold the words of
the block QNT makes of the group's f32 registers, or the elements that DQNT decodes from the group's block; registers
of other lanes, other v-registers, s-registers, mask registers and memory are as before. (R250, R251, R252, R253) -/
def Obligations.BlockQuantise : Prop :=
  ∀ (f : RF) (s : State), partLanes s.wave (actOf s f) = 0#64 →
    (Ready (.qnt f) s → (∀ g ∈ fullGroups s.wave (actOf s f), f.md = 1#2 → qntScale f s g ≤ 0x3FD) →
      ∃ t, exec (.qnt f) s = .next t ∧ SameS s t ∧ SameK s t ∧ SameMem s t ∧ Advances (.qnt f) s t ∧
        ∀ n l, l < 64 → vAt t n l =
          if n == f.d.toNat && (fullGroups s.wave (actOf s f)).contains (l / 16) then
            BitVec.ofNat 32 (bytesAt (qntBlock f s (l / 16)).1 (4 * (l % 16)) 4)
          else vAt s n l) ∧
    (Ready (.dqnt f) s →
      (s.wave.mode.getLsbD 7 = true → ∀ g ∈ fullGroups s.wave (actOf s f), (sdbHeader (groupBlock s f.a g)).reserved = false) →
      ∃ t, exec (.dqnt f) s = .next t ∧ SameS s t ∧ SameK s t ∧ SameMem s t ∧ Advances (.dqnt f) s t ∧
        ∀ n l, l < 64 → vAt t n l =
          if inGroup f.d.toNat (dqntN (ctlOf f.c % 4)) n && (fullGroups s.wave (actOf s f)).contains (l / 16) then
            (dqntLane f s (groupBlock s f.a (l / 16)) (l % 16)).getD (n - f.d.toNat) 0
          else vAt s n l)

/-! ### Lane instructions -/

/-- What KPOPC, KFFS, RDFIRST, SHFL and the lane trees write, and that they write nothing else. KPOPC and KFFS write each
active lane its count or index of the masks' common bits; RDFIRST the value of the lowest active lane, to each active
lane or once to an s-register; SHFL the value of the source lane, or the lane's own where that is absent; REDUCE,
SCAN, SEGRED and SEGSCAN the tree of R94 over the positions that belong. Each completes once the checks pass and
changes nothing else. (R94, R95, R96, R196, R199, R200, R201, R204) -/
def Obligations.LaneResults : Prop :=
  ∀ (i : Instr) (s : State) (f : RF) (g : Nat → List W32), (∀ l, laneRegs i s l = some (f, g l)) → Ready i s →
    ∃ t, exec i s = .next t ∧ WritesDst f g s t ∧ SameK s t ∧ RegFrame s t ∧ Advances i s t

/-- An integer REDUCE with .add gives every active lane the sum of the active lanes. For an integer TYPE, REDUCE.add
completes once the checks pass, and the destination of every active lane holds the sum of A over the active lanes,
modulo 2^w: the tree's shape and the absent positions do not show. (R94, R204, R69) -/
def Obligations.ReduceAddsActiveLanes : Prop :=
  ∀ (f : RF) (s : State), f.ty.toNat < 8 → bitsOf (ctlOf f.c) 3 1 = 0 → Ready (.reduce f) s →
    ∃ t, exec (.reduce f) s = .next t ∧ ∀ l, (actOf s f).has l = true →
      dstBits f t l = (((Mask.lanes (actOf s f)).map fun j => srcBits s f.ty f.a j).sum) % 2 ^ tyBits f.ty

/-- VOTE. VOTE completes once the checks pass. With an active lane it writes k[D] in full: with .ballot the active lanes
whose A is nonzero; with .any all ones if some active lane's A is nonzero; with .all all ones if every active lane's
is; with .eq all ones if the active lanes hold the same bits; else zero. With an empty active set it writes no
register, as Table 6.2 has it (assumption 13 logs R197's other words). Nothing else changes, and k0 discards the
write. (R172, R197) -/
def Obligations.VoteWritesMask : Prop :=
  ∀ (f : RF) (s : State), Ready (.vote f) s →
    ∃ t, exec (.vote f) s = .next t ∧ RegFrame s t ∧ Advances (.vote f) s t ∧ SameV s t ∧ SameS s t ∧
      (∀ n l, n ≠ f.d.toNat → kAt t n l = kAt s n l) ∧ (f.d = 0#9 ∨ actOf s f = 0#64 → SameK s t) ∧
      (f.d ≠ 0#9 → actOf s f ≠ 0#64 → ∀ l, l < 64 → (kAt t f.d.toNat l = true ↔
        (f.md = 0#2 ∧ (actOf s f).has l = true ∧ srcBits s f.ty f.a l ≠ 0) ∨
        (f.md = 1#2 ∧ ∃ j, (actOf s f).has j = true ∧ srcBits s f.ty f.a j ≠ 0) ∨
        (f.md = 2#2 ∧ ∀ j, (actOf s f).has j = true → srcBits s f.ty f.a j ≠ 0) ∨
        (f.md = 3#2 ∧ ∀ j k, (actOf s f).has j = true → (actOf s f).has k = true → srcBits s f.ty f.a j = srcBits s f.ty f.a k)))

/-- KOP. KOP completes once the checks pass, ignoring split and predicate: it writes all 64 bits of k[D] with the function
TYPE names of its mask operands, k0 reading the issuing split's MASK, of an s-pair, or with ones in the wave's width;
k0 discards the write. Nothing else changes; the mask registers are the wave's, so that the change holds for all its
splits. A KOP with a reserved TYPE, or whose unused operand is not zero, is no well-formed instruction. (R198) -/
def Obligations.MaskOperations : Prop :=
  ∀ (f : RF) (s : State), Ready (.kop f) s →
    ∃ t, exec (.kop f) s = .next t ∧ RegFrame s t ∧ Advances (.kop f) s t ∧ SameV s t ∧ SameS s t ∧
      (∀ n l, n ≠ f.d.toNat → kAt t n l = kAt s n l) ∧ (f.d = 0#9 → SameK s t) ∧
      (f.d ≠ 0#9 → ∀ l, l < 64 →
        let a := (srcMask s f.a).has l
        let b := (srcMask s f.b).has l
        kAt t f.d.toNat l =
          if f.ty = 0#4 then a && b else if f.ty = 1#4 then a || b else if f.ty = 2#4 then a != b
          else if f.ty = 3#4 then a && !b else if f.ty = 4#4 then !a else if f.ty = 5#4 then a
          else if f.ty = 6#4 then bitAt (src64 s f.a 0) l else decide (l < s.wave.width)) ∧
      (formOk (.kop f) = true → f.ty.toNat < 8 ∧ (4 ≤ f.ty.toNat → f.b = .v 0#9) ∧ (f.ty = 7#4 → f.a = .v 0#9))

/-- What PERM, COMPRESS, EXPAND, VRDX and VWRX move. PERM gives each active lane the A of the lane of its quad that the
pattern names, active or not (an exited source lane gives an undefined value). COMPRESS gives the j-th active lane the
A of the j-th selected one, EXPAND the j-th selected lane the A of the j-th active one; every other active lane keeps
its D. Each completes once the checks pass and changes nothing else. When every active lane's index is in range and no
indexed register awaits a result, VRDX writes the indexed register or pair of each active lane to D, and VWRX writes B
to it; nothing else changes. When some active lane's index is out of range, or odd for a 64-bit TYPE, the instruction
raises ILLOP RESERVED with those lanes in TRAPMASK. (R202, R203, R205, R4, notes/assumptions/1.md) -/
def Obligations.LaneMoves : Prop :=
  ∀ (f : RF) (s : State),
    (Ready (.perm f) s → ∃ t, exec (.perm f) s = .next t ∧ RegFrame s t ∧ Advances (.perm f) s t ∧ SameS s t ∧ SameK s t ∧
      ∀ n l, l < 64 →
        (((actOf s f).has l && inGroup f.d.toNat (tyRegs f.ty) n) = false → vAt t n l = vAt s n l) ∧
        ((actOf s f).has l = true → inGroup f.d.toNat (tyRegs f.ty) n = true →
          s.wave.exited.has (4 * (l / 4) + bitsOf (src32 s f.b l) (2 * (l % 4) + 1) (2 * (l % 4))) = false →
          vAt t n l = (resRegs f.ty (srcBits s f.ty f.a
            (4 * (l / 4) + bitsOf (src32 s f.b l) (2 * (l % 4) + 1) (2 * (l % 4))))).getD (n - f.d.toNat) 0)) ∧
    (Ready (.compress f) s → ∃ t, exec (.compress f) s = .next t ∧ RegFrame s t ∧ Advances (.compress f) s t ∧ SameS s t ∧
      SameK s t ∧ ∃ act sel, (act, sel) = actSel f s ∧
        (∀ j, j < sel.length → ∀ r, r < tyRegs f.ty →
          vAt t (f.d.toNat + r) (act.getD j 0) = (resRegs f.ty (srcBits s f.ty f.a (sel.getD j 0))).getD r 0) ∧
        (∀ n l, l < 64 → (¬ l ∈ act.take sel.length ∨ inGroup f.d.toNat (tyRegs f.ty) n = false) → vAt t n l = vAt s n l)) ∧
    (Ready (.expand f) s → ∃ t, exec (.expand f) s = .next t ∧ RegFrame s t ∧ Advances (.expand f) s t ∧ SameS s t ∧
      SameK s t ∧ ∃ act sel, (act, sel) = actSel f s ∧
        (∀ j, j < sel.length → ∀ r, r < tyRegs f.ty →
          vAt t (f.d.toNat + r) (sel.getD j 0) = (resRegs f.ty (srcBits s f.ty f.a (act.getD j 0))).getD r 0) ∧
        (∀ n l, l < 64 → (¬ l ∈ sel ∨ inGroup f.d.toNat (tyRegs f.ty) n = false) → vAt t n l = vAt s n l)) ∧
    (Ready (.vrdx f) s → badIndexes f s = 0#64 → indexEmpty f s = false →
      ∃ t, exec (.vrdx f) s = .next t ∧ RegFrame s t ∧ Advances (.vrdx f) s t ∧ SameK s t ∧
        WritesDst f (fun l => (List.range (tyRegs f.ty)).map fun j => rdV s (src32 s f.a l + j) l) s t) ∧
    (Ready (.vwrx f) s → badIndexes f s = 0#64 → indexEmpty f s = false →
      ∃ t, exec (.vwrx f) s = .next t ∧ RegFrame s t ∧ Advances (.vwrx f) s t ∧ SameS s t ∧ SameK s t ∧
        ∀ n l, l < 64 → vAt t n l =
          if (actOf s f).has l && inGroup (src32 s f.a l) (tyRegs f.ty) n then
            (resRegs f.ty (srcBits s f.ty f.b l)).getD (n - src32 s f.a l) 0
          else vAt s n l) ∧
    (∀ i, i = .vrdx f ∨ i = .vwrx f → Ready i s → badIndexes f s ≠ 0#64 →
      ∃ t, exec i s = .next t ∧ Trapped s t 1 2 (badIndexes f s) 0 i)

/-! ### Control -/

/-- NOP and YIELD only take an issue slot; PREF and FENCE change no value. NOP and YIELD, in either encoding, in a split
or in access code, complete once the checks pass and move past the instruction; no register, mask, byte of memory or
other state changes but the issue bookkeeping, in which YIELD clears the split's CUR. PREF and FENCE in a split
complete and move on too (a FENCE with ORD 11, whatever its SCOPE, once the writes of its lanes have been performed,
and until then nothing changes: the model's choice, assumption 22), and no register, mask or byte of memory changes.
(R185, R57, R273, R274, notes/assumptions/22.md) -/
def Obligations.NopAndYieldDoNothing : Prop :=
  (∀ (i : Instr) (f : RF) (s : State), expand i = .nop f ∨ expand i = .yield f → Ready i s →
    ∃ t, exec i s = .next t ∧ RegFrame s t ∧ Advances i s t ∧ SameV s t ∧ SameS s t ∧ SameK s t ∧
      (expand i = .yield f → s.acc = false → t.wave.cur.cur = false)) ∧
  (∀ (i : Instr) (f : MF) (s : State), i = .pref f ∨ i = .fence f → Ready i s → s.acc = false →
    (i = .fence f ∧ f.ord = 3#2 → ownWrites false s = false) →
    ∃ t, exec i s = .next t ∧ Advances i s t ∧ ControlFrame s t) ∧
  ∀ (f : MF) (s : State), Ready (.fence f) s → f.ord = 3#2 → ownWrites false s = true → exec (.fence f) s = .next s

/-- BRA sends each running lane to its own address. BRA in a split completes once the checks pass and the deferral stack
has room: every running lane then stands, in a split or a deferral, at the target if it is taken and at the next
header if not (with .any and .all the lanes go together), and registers, memory and other waves are as before. In
access code the thread goes to the target when its scalar predicate holds, and past the branch otherwise. A plain BRA
that divides its split while no entry is free for the second set, or the sets share a quad, and sixteen deferrals are
already held, raises CONVERGE, DEFER. (R143, R144, R147, R174) -/
def Obligations.BranchSendsEveryLane : Prop :=
  ∀ (f : BF) (s : State), Ready (.bra f) s →
    (s.acc = false → s.wave.defs.length < 16 →
      ∃ t, exec (.bra f) s = .next t ∧ ControlFrame s t ∧
        ∀ l, s.wave.cur.mask.has l = true → LaneAt t l
          (if (if f.bmod = 1#4 then activeOf s f.k f.kn != 0#64
               else if f.bmod = 2#4 then activeOf s f.k f.kn == s.wave.cur.mask
               else (activeOf s f.k f.kn).has l) = true
           then offPc s f.off else afterPc s (.bra f))) ∧
    (s.acc = true →
      ∃ t, exec (.bra f) s = .next t ∧ SameV s t ∧ SameS s t ∧ SameK s t ∧ SameMem s t ∧
        pcOf t = if f.k = 0#4 ∨ (rdS s f.k.toNat != 0#32) ≠ f.kn then offPc s f.off else afterPc s (.bra f)) ∧
    (s.acc = false → f.bmod = 0#4 → s.wave.defs.length = 16 →
      activeOf s f.k f.kn ≠ 0#64 → s.wave.cur.mask &&& ~~~activeOf s f.k f.kn ≠ 0#64 →
      (freeEntries s = [] ∨
        Mask.quads (activeOf s f.k f.kn) &&& Mask.quads (s.wave.cur.mask &&& ~~~activeOf s f.k f.kn) ≠ 0#64) →
      ∃ t, exec (.bra f) s = .next t ∧ Trapped s t 3 3 s.wave.cur.mask 0 (.bra f))

/-- CALL writes its link and sends the active lanes to the target. CALL completes once the checks pass and the deferral
stack has room: each active lane's link pair, or the scalar pair once when some lane is active, holds the address of
the next header in bits 48 to 0 and zeros above; no other register changes; the active lanes stand at the target and
the other running lanes at the next header. (R177) -/
def Obligations.CallLinksAndBranches : Prop :=
  ∀ (f : BF) (s : State), Ready (.call f) s → s.acc = false → s.wave.defs.length < 16 →
    ∃ t, exec (.call f) s = .next t ∧ SameMem s t ∧ SameK s t ∧ t.bg = s.bg ∧ t.wave.seq = s.wave.seq + 1 ∧
      (∀ l, s.wave.cur.mask.has l = true → LaneAt t l
        (if (activeOf s f.k f.kn).has l then offPc s f.off else afterPc s (.call f))) ∧
      (∀ n, f.a = .v n → SameS s t ∧
        WritesV s t (activeOf s f.k f.kn) n.toNat fun _ => [lo32 (0#15 ++ afterPc s (.call f)), hi32 (0#15 ++ afterPc s (.call f))]) ∧
      (∀ n, f.a = .s n → SameV s t ∧
        WritesS s t n.toNat (if activeOf s f.k f.kn = 0#64 then []
          else [lo32 (0#15 ++ afterPc s (.call f)), hi32 (0#15 ++ afterPc s (.call f))]))

/-- RET and BRX send each active lane to its own address. RET, in either encoding, and BRX complete once the checks pass,
the deferral stack has room for every group of lanes, and (for BRX) every active lane's table entry can be read: each
active lane then stands at the low 49 bits of its pair, or at the branch's offset target plus its signed table entry,
the other running lanes at the next header; registers, memory (but for the write-backs that BRX's reads recall: `v` is
the state after them) and other waves are as before. (R175, R176, R177) -/
def Obligations.IndirectBranchesSendEveryLane : Prop :=
  ∀ (s : State), s.acc = false →
    (∀ (i : Instr) (f : RF), expand i = .ret f → Ready i s →
      s.wave.defs.length + (groupsOf ((Mask.lanes s.wave.cur.mask).map fun l =>
        (l, if Mask.has (actOf s f) l then (pairVal s f.a l).extractLsb' 0 49 else afterPc s i))).length ≤ 17 →
      ∃ t, exec i s = .next t ∧ ControlFrame s t ∧ ∀ l, s.wave.cur.mask.has l = true →
        LaneAt t l (if (actOf s f).has l then (pairVal s f.a l).extractLsb' 0 49 else afterPc s i)) ∧
    (∀ (f : BF) (x : Nat → Nat) (v : State), Ready (.brx f) s →
      plainReads false [] ((Mask.lanes (activeOf s f.k f.kn)).map fun l => (l, (pairVal s f.a l).toNat, 4)) (issued (.brx f) s) =
        (v, (Mask.lanes (activeOf s f.k f.kn)).map fun l => Got.val (x l)) →
      s.wave.defs.length + (groupsOf ((Mask.lanes s.wave.cur.mask).map fun l =>
        (l, if Mask.has (activeOf s f.k f.kn) l then offPc s f.off + (BitVec.ofNat 32 (x l)).signExtend 49
            else afterPc s (.brx f)))).length ≤ 17 →
      ∃ t, exec (.brx f) s = .next t ∧ ControlFrame { s with mem := v.mem, raw := v.raw, teams := v.teams } t ∧
        ∀ l, s.wave.cur.mask.has l = true →
        LaneAt t l (if (activeOf s f.k f.kn).has l then offPc s f.off + (BitVec.ofNat 32 (x l)).signExtend 49
          else afterPc s (.brx f)))

/-- RJOIN waits at a rejoin point that its split has a record of. RJOIN in a split without pending deferrals first takes
in the deferrals held at its address. Where no record of the split names the point, or the RJOIN is not the first
instruction of its block, the split goes on; where the record found is LATE, it is popped with those above it and the
split goes on; otherwise the split waits in RJWAIT with that record on top and the deadline its operand or MODE.RJTO
gives. In each case it completes once the checks pass. With a pending deferral of the same point, the running lanes
stop there as a held deferral and the pending path runs. (R148, R149, R150, R151, R152) -/
def Obligations.RejoinArrival : Prop :=
  ∀ (f : BF) (s : State), s.acc = false → Ready (.rjoin f) s →
   (∀ d x, pendingOf s.wave s.wave.cur.idx = some d → d.rj = some x →
     rejoinPoint s.wave.isL s.wave.cur.blk s.wave.cur.pc = some x →
     ∃ t, exec (.rjoin f) s = .next t ∧ t.wave.cur.mask = d.mask ∧ t.wave.cur.pc = d.pc ∧ t.wave.cur.state = .ready ∧
       (∃ y ∈ t.wave.defs, y.held = true ∧ y.mask = s.wave.cur.mask ∧ y.pc = s.wave.cur.pc ∧ y.owner = s.wave.cur.idx) ∧
       SameV s t ∧ SameS s t ∧ SameK s t ∧ SameMem s t) ∧
   (pendingOf s.wave s.wave.cur.idx = none →
    (∀ x, rejoinPoint s.wave.isL s.wave.cur.blk s.wave.cur.pc = some x →
      (s.wave.cur.rj.dropWhile fun r => r.addr != x) = [] → ∃ t, exec (.rjoin f) s = .next t ∧ Advances (.rjoin f) s t ∧
        t.wave.cur.mask = (takeHeld s.wave).cur.mask ∧ t.wave.cur.rj = s.wave.cur.rj ∧ t.wave.cur.state = s.wave.cur.state ∧
        SameV s t ∧ SameS s t ∧ SameK s t ∧ SameMem s t) ∧
    (rejoinPoint s.wave.isL s.wave.cur.blk s.wave.cur.pc = none → ∃ t, exec (.rjoin f) s = .next t ∧ Advances (.rjoin f) s t ∧
        t.wave.cur.mask = (takeHeld s.wave).cur.mask ∧ t.wave.cur.rj = s.wave.cur.rj ∧ SameV s t ∧ SameS s t ∧ SameK s t ∧
        SameMem s t) ∧
    (∀ x r rest, rejoinPoint s.wave.isL s.wave.cur.blk s.wave.cur.pc = some x →
      (s.wave.cur.rj.dropWhile fun r => r.addr != x) = r :: rest →
      (r.late = true → ∃ t, exec (.rjoin f) s = .next t ∧ Advances (.rjoin f) s t ∧ t.wave.cur.rj = rest ∧
        t.wave.cur.mask = (takeHeld s.wave).cur.mask ∧ SameV s t ∧ SameS s t ∧ SameK s t ∧ SameMem s t) ∧
      (r.late = false → ∃ t, exec (.rjoin f) s = .next t ∧
        t.wave.cur.state = .rjwait ∧ t.wave.cur.rj = r :: rest ∧ t.wave.cur.mask = (takeHeld s.wave).cur.mask ∧
        t.wave.cur.pc = s.wave.cur.pc ∧ t.wave.cur.deadline = (if rjOperand s f.a ≠ 0#32 then rjOperand s f.a
          else if s.wave.mode >>> 20 = 0#32 then 0xFFFFFFFF#32 else (s.wave.mode >>> 20) * 256) ∧
        t.wave.seq = s.wave.seq + 1 ∧ SameV s t ∧ SameS s t ∧ SameK s t ∧ t.bg = s.bg ∧ SameMem s t)))

/-- EXIT removes the active lanes for good. EXIT, in either encoding, completes once the checks pass. In access code it
ends the thread. In a split whose active set is empty it only moves on. Otherwise, in a team without barriers in use
and without waves at a REGROUP, the active lanes are added to the wave's exited lanes; the running lanes left, if any,
go on at the next instruction, and when none is left and no deferral is owned the entry is free. Registers and memory
are as before. (R182, R149) -/
def Obligations.ExitRemovesLanes : Prop :=
  ∀ (i : Instr) (f : RF) (s : State), expand i = .exit f → Ready i s →
    (s.acc = true → ∃ t, exec i s = .next t ∧ t.wave.thread.map (·.done) = some true ∧ SameV s t ∧ SameS s t ∧ SameK s t ∧
      SameMem s t) ∧
    (s.acc = false → actOf s f = 0#64 → ∃ t, exec i s = .next t ∧ RegFrame s t ∧ Advances i s t ∧ SameV s t ∧ SameS s t ∧
      SameK s t) ∧
    (s.acc = false → actOf s f ≠ 0#64 → (∀ x, findTeam s s.wave.team = some x → x.bars = []) →
      (∀ w ∈ allWaves s, w.team = s.wave.team → ∀ x ∈ w.cur :: w.others, x.bar = none) →
      ∃ t, exec i s = .next t ∧ SameV s t ∧ SameS s t ∧ SameK s t ∧ SameMem s t ∧ t.bg = s.bg ∧
        t.wave.uid = s.wave.uid ∧ t.wave.exited = s.wave.exited ||| actOf s f ∧ t.wave.seq = s.wave.seq + 1 ∧
        (s.wave.others = [] → s.wave.defs = [] → s.wave.cur.mask &&& ~~~actOf s f ≠ 0#64 → Advances i s t ∧
          t.wave.cur.mask = s.wave.cur.mask &&& ~~~actOf s f) ∧
        (s.wave.others = [] → s.wave.defs = [] → s.wave.cur.mask &&& ~~~actOf s f = 0#64 → t.wave.splits = []))

/-- BKPT and TRAP raise their traps. BKPT and TRAP with an active lane raise BKPT, subcause 1, and SOFT, with the low
eight bits of the immediate as subcause, in their split, with the active set in TRAPMASK: that is their whole effect.
With an empty active set they only move on. (R178, R183, R165) -/
def Obligations.BreakpointAndTrapRaise : Prop :=
  ∀ (f : IF) (s : State), s.acc = false →
    (Ready (.bkpt f) s → activeOf s f.k f.kn ≠ 0#64 →
      ∃ t, exec (.bkpt f) s = .next t ∧ Trapped s t 5 1 (activeOf s f.k f.kn) 0 (.bkpt f)) ∧
    (Ready (.trap f) s → activeOf s f.k f.kn ≠ 0#64 →
      ∃ t, exec (.trap f) s = .next t ∧ Trapped s t 6 (f.imm.extractLsb' 0 8).toNat (activeOf s f.k f.kn) 0 (.trap f)) ∧
    (∀ i, i = .bkpt f ∨ i = .trap f → Ready i s → activeOf s f.k f.kn = 0#64 →
      ∃ t, exec i s = .next t ∧ RegFrame s t ∧ Advances i s t ∧ SameV s t ∧ SameS s t ∧ SameK s t)

/-- SLEEP and WAITMEM put their split to sleep; BAR, BARARV and BARWT issue. SLEEP with a count of 0 acts as YIELD, and
with n > 0 leaves the split in SLEEP at the next instruction with n cycles to go. WAITMEM, when its lanes' addresses
are aligned and translate, leaves the split in SLEEP at its own address, waiting until each lane's place differs from
DATA; with no active lane it only moves on. Registers and memory are as before. BAR, BARARV and BARWT issue too,
whatever their barrier holds, once the checks pass, the count is at most 16 and no lane of the split has arrived
before its wave: BARARV goes on at the next instruction; BAR and BARWT go on there or wait in BARWAIT at their own
address (which address is the model's choice, assumption 15), or, with a pending deferral, leave it the entry. (R186,
R187, R188, R189, R190, notes/assumptions/15.md) -/
def Obligations.SleepAndWaitOnMemory : Prop :=
  ∀ (s : State), s.acc = false →
    (∀ (f : IF), Ready (.sleep f) s → ∃ t, exec (.sleep f) s = .next t ∧ Advances (.sleep f) s t ∧ ControlFrame s t ∧
      t.wave.cur.cur = false ∧ t.wave.cur.mask = s.wave.cur.mask ∧
      (f.imm = 0#22 → t.wave.cur.state = s.wave.cur.state) ∧
      (f.imm ≠ 0#22 → t.wave.cur.state = .sleep ∧ t.wave.cur.sleep = f.imm.toNat)) ∧
    (∀ (f : MF) (keys : List (Nat × Nat × Nat)), Ready (.waitmem f) s →
      (∀ l ∈ mLanes s f, mEa s f l % accSize (.load f.mty.toNat) = 0) →
      probe s s.wave.die s.wave.ctx (accSize (.load f.mty.toNat)) (wantOf s true false [])
        ((mLanes s f).map fun l => (l, mEa s f l)) = .ok keys →
      (mLanes s f = [] → ∃ t, exec (.waitmem f) s = .next t ∧ Advances (.waitmem f) s t ∧ ControlFrame s t) ∧
      (mLanes s f ≠ [] → ∃ t, exec (.waitmem f) s = .next t ∧ ControlFrame s t ∧ t.wave.cur.state = .sleep ∧
        t.wave.cur.pc = s.wave.cur.pc ∧
        t.wave.cur.waitmem = some { lanes := laneAccs keys (fun l => mData s f l) fun _ => 0,
                                    size := accSize (.load f.mty.toNat), scalar := f.sc })) ∧
    (∀ (f : RF) (i : Instr), i = .bar f ∨ i = .bararv f ∨ i = .barwt f → Ready i s →
      (i = .barwt f ∨ (i = .bar f ∧ s.wave.cur.posted ≠ none) ∨ (src32 s f.b 0 ≤ 16 ∧
        ∀ x, teamBar s (barIdx s f.a) = some x → barLanes x s.wave.uid &&& s.wave.cur.mask = 0#64)) →
      ∃ t, exec i s = .next t ∧ t.wave.seq = s.wave.seq + 1 ∧ t.mem = s.mem ∧ SameV s t ∧ SameK s t ∧ (i = .bararv f ∨ SameS s t) ∧
        (i = .bararv f → Advances i s t) ∧
        (Advances i s t ∨ (t.wave.cur.state = .barwait ∧ t.wave.cur.pc = s.wave.cur.pc) ∨
          ∃ d, pendingOf s.wave s.wave.cur.idx = some d ∧ t.wave.cur.mask = d.mask ∧ t.wave.cur.pc = d.pc))

/-- BAR and BARARV arrive at their team's barrier, and BAR and BARWT wait for its next generation. For a split without a
pending deferral whose lanes have not arrived yet, and a count of at most 16: while other live lanes of the wave have
not arrived, BAR records the lanes and waits with the current generation as token; the arrival of the last of them is
the wave's, which sets EXP on the first arrival and adds one to ARR; when ARR reaches EXP the generation advances by
one, ARR returns to 0, and the split goes on at the next instruction. BARARV does the same without waiting and writes
the generation it arrived in to D. BARWT goes on when the generation differs from its token and waits otherwise. A
count above 16 raises ILLOP RESERVED, a lane's second arrival before its wave's changes nothing, a BAR that is issued
again does not arrive again, and with a pending deferral BAR's and BARWT's lanes stop as a held deferral. (That a
waiting split keeps the barrier's own address and issues it again is the model's choice, assumption 15.) (R188, R189,
notes/assumptions/15.md) -/
def Obligations.BarrierArrival : Prop :=
  ∀ (f : RF) (s : State) (b n : Nat) (x : Bar), s.acc = false → b = barIdx s f.a → teamBar s b = some x →
   (∀ i, i = .bar f ∨ i = .bararv f → i = .bararv f ∨ s.wave.cur.posted = none → Ready i s →
    (16 < src32 s f.b 0 → ∃ t, exec i s = .next t ∧ Trapped s t 1 2 s.wave.cur.mask 0 i) ∧
    (src32 s f.b 0 ≤ 16 → barLanes x s.wave.uid &&& s.wave.cur.mask ≠ 0#64 → exec i s = .next s)) ∧
   (∀ i c tok, pendingOf s.wave s.wave.cur.idx = none → Ready i s → i = .bar f → s.wave.cur.posted = some (c, tok) →
    (barGen s c ≠ tok → ∃ t, exec i s = .next t ∧ Advances i s t ∧ ControlFrame s t ∧ t.wave.cur.posted = none) ∧
    (barGen s c = tok → ∃ t, exec i s = .next t ∧ ControlFrame s t ∧ t.wave.cur.state = .barwait ∧
      t.wave.cur.bar = some (.bar c tok) ∧ t.wave.cur.pc = s.wave.cur.pc)) ∧
   (∀ i d, i = .bar f ∨ i = .barwt f → pendingOf s.wave s.wave.cur.idx = some d → Ready i s →
    (i = .bar f → s.wave.cur.posted = none → src32 s f.b 0 ≤ 16 ∧ barLanes x s.wave.uid &&& s.wave.cur.mask = 0#64) →
    ∃ t y, exec i s = .next t ∧ t.wave.cur.mask = d.mask ∧ t.wave.cur.pc = d.pc ∧ t.wave.cur.state = .ready ∧ y ∈ t.wave.defs ∧
      y.held = true ∧ y.mask = s.wave.cur.mask ∧ y.pc = s.wave.cur.pc ∧ y.owner = s.wave.cur.idx ∧ y.h = s.wave.cur.h ∧
      y.posted = (if i = .barwt f then none else s.wave.cur.posted <|> some (b, x.gen)) ∧
      SameV s t ∧ SameS s t ∧ SameK s t ∧ SameMem s t) ∧
   (s.wave.cur.posted = none → pendingOf s.wave s.wave.cur.idx = none →
    (Ready (.bar f) s → n = src32 s f.b 0 → n ≤ 16 → barLanes x s.wave.uid &&& s.wave.cur.mask = 0#64 →
      (s.wave.liveLanes &&& ~~~(barLanes x s.wave.uid ||| s.wave.cur.mask) ≠ 0#64 →
        ∃ t y, exec (.bar f) s = .next t ∧ teamBar t b = some y ∧ y.gen = x.gen ∧ y.arr = x.arr ∧
          barLanes y s.wave.uid = barLanes x s.wave.uid ||| s.wave.cur.mask ∧ t.wave.cur.state = .barwait ∧
          t.wave.cur.bar = some (.bar b x.gen) ∧ t.wave.cur.pc = s.wave.cur.pc ∧ SameV s t ∧ SameS s t ∧ SameK s t ∧ SameMem s t) ∧
      (s.wave.liveLanes &&& ~~~(barLanes x s.wave.uid ||| s.wave.cur.mask) = 0#64 →
        let y := waveArrive x s.wave.uid n (liveWaves s s.wave.team).length
        (y.arr ≠ y.exp → ∃ t, exec (.bar f) s = .next t ∧ teamBar t b = some y ∧ y.arr = x.arr + 1 ∧
          t.wave.cur.state = .barwait ∧ t.wave.cur.bar = some (.bar b x.gen) ∧ SameV s t ∧ SameS s t ∧ SameK s t ∧ SameMem s t) ∧
        (y.arr = y.exp → ∃ t z, exec (.bar f) s = .next t ∧ teamBar t b = some z ∧ z.gen = x.gen + 1 ∧ z.arr = 0 ∧
          Advances (.bar f) s t ∧ t.wave.cur.state = s.wave.cur.state ∧ SameV s t ∧ SameS s t ∧ SameK s t ∧ SameMem s t))) ∧
    (Ready (.bararv f) s → n = src32 s f.b 0 → n ≤ 16 → barLanes x s.wave.uid &&& s.wave.cur.mask = 0#64 →
      ∃ t y, exec (.bararv f) s = .next t ∧ Advances (.bararv f) s t ∧ teamBar t b = some y ∧ y.b = x.b ∧
        WritesS s t f.d.toNat [x.gen] ∧ SameV s t ∧ SameK s t ∧ SameMem s t) ∧
    (Ready (.barwt f) s →
      (BitVec.ofNat 32 (src32 s f.b 0) ≠ x.gen → ∃ t, exec (.barwt f) s = .next t ∧ Advances (.barwt f) s t ∧ ControlFrame s t) ∧
      (BitVec.ofNat 32 (src32 s f.b 0) = x.gen → ∃ t, exec (.barwt f) s = .next t ∧ ControlFrame s t ∧
        t.wave.cur.state = .barwait ∧ t.wave.cur.bar = some (.bar b x.gen) ∧ t.wave.cur.pc = s.wave.cur.pc)))

/-- REGROUP re-sorts the lanes of its participants. A REGROUP past its forced fuse whose PART does not name the wave
raises ILLOP RESERVED. While a v-register of its live mask awaits a result nothing changes; otherwise: When PART names
the wave and it is the only resident wave of its team, REGROUP completes: the live lanes, sorted stably by key, take
positions 0, 1, …; each position receives its thread's v-registers named in the live mask, and in D 64 times the
wave's number plus the old lane; and the positions above are exited lanes. When another wave named in PART has not
come to a REGROUP, the wave waits in BARWAIT. Memory and scalar registers are as before. (R191, R192) -/
def Obligations.RegroupSortsLanes : Prop :=
  ∀ (f : RF) (x : RegroupX) (s : State), s.acc = false → Ready (.regroup f x) s →
    (x.part.getLsbD s.wave.waveId = false →
      ∃ t, exec (.regroup f x) s = .next t ∧ Trapped s t 1 2 s.wave.cur.mask 0 (.regroup f x)) ∧
    let owed : Prop := ∃ m n, f.b = .mask m ∧ n < 64 ∧ n < s.wave.regs ∧ (rdK s m.toNat).getLsbD n = true ∧ emptyAny s (.v n) = true
    (x.part.getLsbD s.wave.waveId = true → owed → exec (.regroup f x) s = .next s) ∧
    (x.part.getLsbD s.wave.waveId = true → ¬ owed → (∀ w ∈ s.bg, liveOf s.wave.team w = false) → s.wave.liveLanes ≠ 0#64 →
      s.wave.width ≤ 64 →
      ∃ (t : State) (thr : List Nat), exec (.regroup f x) s = .next t ∧ thr.Perm (Mask.lanes s.wave.liveLanes) ∧
        thr.Pairwise (fun i j => srcInt s f.ty f.a i < srcInt s f.ty f.a j ∨
          (srcInt s f.ty f.a i = srcInt s f.ty f.a j ∧ i < j)) ∧
        (∀ j, j < thr.length → vAt t f.d.toNat j = BitVec.ofNat 32 (64 * s.wave.waveId + thr.getD j 0)) ∧
        (∀ j n m, j < thr.length → n < 64 → n < s.wave.regs → n ≠ f.d.toNat → f.b = .mask m → (rdK s m.toNat).getLsbD n = true →
          vAt t n j = rdV s n (thr.getD j 0)) ∧
        (∀ l, l < s.wave.width → t.wave.exited.has l = decide (thr.length ≤ l)) ∧ SameS s t ∧ SameK s t ∧ SameMem s t) ∧
    (x.part.getLsbD s.wave.waveId = true → ¬ owed → (∀ w ∈ s.bg, regroupOf w = none) →
      (∃ w ∈ s.bg, liveOf s.wave.team w = true ∧ w.waveId < 16 ∧ w.waveId ≠ s.wave.waveId ∧ x.part.getLsbD w.waveId = true) →
      ∃ t, exec (.regroup f x) s = .next t ∧ t.wave.cur.state = .barwait ∧ t.wave.cur.pc = s.wave.cur.pc ∧ SameV s t ∧
        SameS s t ∧ SameK s t ∧ SameMem s t)

/-- SRD. SRD, in either encoding, vector or scalar, in a split or in access code, completes once the checks pass: each
active lane, or the scalar destination, receives the named register's value; reading CLOCK's low half with an active
lane latches the high half, reading the high half drops the latch; nothing else changes. (R48, R193, R194) -/
def Obligations.SpecialRegisterRead : Prop :=
  ∀ (i : Instr) (f : RF) (s : State), expand i = .srd f → Ready i s →
    ∃ t, exec i s = .next t ∧ WritesDst f (fun l => [specVal s (specIdx f.a) l]) s t ∧ SameK s t ∧ Advances i s t ∧
      RegFrame s (setLatch (clockLatch s) t) ∧
      (specIdx f.a ≠ 0x0E → specIdx f.a ≠ 0x0F → clockLatch t = clockLatch s) ∧
      (f.sc = true ∨ actOf s f ≠ 0#64 →
        (specIdx f.a = 0x0E → clockLatch t = some (hi32 (BitVec.ofNat 64 s.clock))) ∧
        (specIdx f.a = 0x0F → clockLatch t = none))

/-- SWR. SWR completes once the checks pass. A write of MODE changes RJTO, MSPLIT, FTZ16 and FTZ32 and no other bit, from
the next sub-core cycle on; a write of SEED sets the split's LF, 1 standing for 0; writes of TRAPPC's halves, in a
handler, change that half alone. No other register, lane, mask bit or byte of memory changes. (R48, R49, R194) -/
def Obligations.SpecialRegisterWrite : Prop :=
  (∀ (s : State) (w : Wave), w.live = true → ctxRuns s w.ctx = true →
    (tickWave s w).mode = w.modeNext.getD w.mode ∧ (tickWave s w).modeNext = none) ∧
  ∀ (f : RF) (s : State) (v : W32), Ready (.swr f) s → s.acc = false →
    v = (match f.b with | .s n => rdS s n.toNat | .imm n => n.signExtend 32 | _ => 0) →
    ∃ t, exec (.swr f) s = .next t ∧ Advances (.swr f) s t ∧ SameMem s t ∧
      t = { s with wave := { s.wave with modeNext := t.wave.modeNext, tPc := t.wave.tPc, seq := s.wave.seq + 1, cur := t.wave.cur } } ∧
      t.wave.cur.mask = s.wave.cur.mask ∧ t.wave.cur.state = s.wave.cur.state ∧
      t.wave.modeNext = (if specIdx f.a = 0x0C then some ((s.wave.mode &&& 0x000FFFE3#32) ||| (v &&& 0xFFF0001C#32))
        else s.wave.modeNext) ∧
      t.wave.cur.lf = (if specIdx f.a = 0x0D then (if v = 0#32 then 1#32 else v) else s.wave.cur.lf) ∧
      t.wave.tPc = (if specIdx f.a = 0x11 then hi32 s.wave.tPc ++ v else if specIdx f.a = 0x12 then v ++ lo32 s.wave.tPc
        else s.wave.tPc)

/-! ### Memory -/

/-- How loads, stores and atomics issue, and when they trap. LD, XRND, ST, COMPST, EXPLD, ATOM, ATOMN and XADD, in a split
or (LD, ST) in access code, once the checks pass and the memory unit has room: with no lane to access they only move
on; when every address is aligned and translates, the instruction completes: the request joins the accesses in flight
with each lane's address, place and data, its destination registers await it in the quads of its lanes, and registers,
masks and memory are as before. In a split a misaligned address raises ALIGN, and a translation fault its own cause,
with the lanes in TRAPMASK (for the scalar form the split's MASK, the model's choice, assumption 13) and the first
address in TRAPADDR; then nothing issues. (R256, R259, R260, R261, R263, R264, R268, R269, R270, R271, R408,
notes/assumptions/13.md) -/
def Obligations.MemoryRequestsIssue : Prop :=
  ∀ (i : Instr) (s : State) (r : MemReq), memReq i s = some r → Ready i s → queued s < 16 →
    (r.accs = [] → ∃ t, exec i s = .next t ∧ RegFrame s t ∧ Advances i s t ∧ SameV s t ∧ SameS s t ∧ SameK s t) ∧
    (∀ keys, r.accs ≠ [] → r.bad = [] → probe s s.wave.die s.wave.ctx r.size r.want r.accs = .ok keys →
      ∃ t, exec i s = .next t ∧ Advances i s t ∧
        t.pend = s.pend ++ [newPending s r.kind r.ord r.scalar r.dst r.ndst (laneAccs keys r.val r.cmp)] ∧
        t.nextId = s.nextId + 1 ∧ (∀ q x, q < 16 → emptyIn t q x = (emptyIn s q x || r.awaits s q x)) ∧
        SameV s t ∧ SameS s t ∧ SameK s t ∧ SameMem s t ∧ t.teams = s.teams ∧ t.bg = s.bg) ∧
    (s.acc = false → r.accs ≠ [] →
      (r.bad ≠ [] → ∃ t, exec i s = .next t ∧
        Trapped s t 7 0 (if r.scalar then s.wave.cur.mask else Mask.ofLanes (r.bad.map (·.1)))
          (addrW ((r.bad.map (·.2)).headD 0)) i) ∧
      (∀ c u m a, r.bad = [] → probe s s.wave.die s.wave.ctx r.size r.want r.accs = .fault c u m a →
        ∃ t, exec i s = .next t ∧ Trapped s t c u (if r.scalar then s.wave.cur.mask else m) (addrW a) i))

/-- A load's reply writes the loaded values and marks the destinations full. LOAD_REPLY for a quad of a load or XRND in
flight whose wave is resident and whose lanes are ready, at places whose value stands in memory: each lane's
destination (the s-registers or the access thread's for the scalar and thread forms) receives the bytes at its place,
extended or widened as MTYPE says, or the rounded cell; the destinations are full in that quad; the lanes leave the
request; and no byte of memory changes. (R257, R260, R269) -/
def Obligations.LoadReplyDelivers : Prop :=
  ∀ (id quad : Nat) (s : State) (p : Pending) (w : Wave), findPending s id = some p → quadReady s p quad = true →
    findWave p.uid s = some w → w.live = true → ((quadLanes p quad).map (·.lane)).Nodup → (∀ a ∈ quadLanes p quad, a.lane < 64) →
    (p.scalar = true ∨ p.thread = true → (quadLanes p quad).length = 1) → (p.thread = true → w.thread.isSome = true) →
    (∀ a ∈ quadLanes p quad, AtHome s p.team a.va a.key (accSize p.kind)) →
    (∀ m, p.kind = .load m → ∃ t w', exec (.loadReply id quad) s = .next t ∧ findWave p.uid t = some w' ∧ SameMem s t ∧
      (∀ a ∈ quadLanes p quad, ∀ j, j < (loadRegs m (s.mem.readN a.key (accSize p.kind))).length →
        replyReg p w' a.lane j = (loadRegs m (s.mem.readN a.key (accSize p.kind))).getD j 0) ∧
      (p.thread = false → p.scalar = false → ∀ j, j < p.ndst → w'.vEmpty.contains (16 * (p.dst + j) + quad) = false) ∧
      (p.thread = false → p.scalar = true → ∀ j, j < p.ndst → w'.sEmpty.contains (p.dst + j) = false)) ∧
    (∀ m, p.kind = .xrnd m → ∃ t w', exec (.loadReply id quad) s = .next t ∧ findWave p.uid t = some w' ∧ SameMem s t ∧
      ∀ a ∈ quadLanes p quad, ∀ j, j < (if m = 3 then 2 else 1) →
        replyReg p w' a.lane j =
          (if m = 3 then loadRegs 3 (bytesOf 8 (cellRound f64 (s.mem.readN a.key 64)))
           else loadRegs 2 (bytesOf 4 (cellRound f32 (s.mem.readN a.key 64)))).getD j 0)

/-- Stores and atomics are performed lane by lane at their places, and nowhere else. STORE_PERFORMED for a store and
ATOMIC_AT_HOME for an atomic or XADD, when every lane is ready and its place's value stands in memory: the lanes act
in ascending order, each on what the one before left, so that memory is the result of their steps; every byte outside
their places reads as before; the request is gone; and an ATOM's lane receives the value its place held just before
its own step. (R116, R117, R263, R264, R265, R266, R267, R268) -/
def Obligations.StoresAndAtomicsPerformed : Prop :=
  ∀ (id : Nat) (s : State) (p : Pending), findPending s id = some p → allReady s p = true →
    (∀ a ∈ p.lanes, AtHome s p.team a.va a.key (accSize p.kind) ∧ a.lane < 64) → (p.lanes.map (·.lane)).Nodup →
    ∃ t, exec (if isAtomic p.kind then .atomicAtHome id else .storePerformed id) s = .next t ∧
      t.mem = p.lanes.foldl (homeStep p.kind) s.mem ∧
      (s.mem.wf = true → ∀ b, (∀ a ∈ p.lanes, b < a.key ∨ a.key + accSize p.kind ≤ b) → byteAt t b = byteAt s b) ∧
      findPending t id = none ∧
      (∀ aop aty w pre a post, p.kind = .atom aop aty true → findWave p.uid s = some w → w.live = true → p.thread = false →
        p.scalar = false → p.lanes = pre ++ a :: post →
        ∃ w', findWave p.uid t = some w' ∧ ∀ j, j < (if accSize p.kind = 8 then 2 else 1) →
          replyReg p w' a.lane j =
            BitVec.ofNat 32 (placeNat (pre.foldl (homeStep p.kind) s.mem) a.key (accSize p.kind) / 2 ^ (32 * j)))

/-- A store through a map slot stays in the stash line until it is written back; SMAP issues. A store of one lane,
performed through its team's map slot where no team holds a dirty line, changes no byte of memory: its team then holds
the line dirty, with the store's bytes over what memory held. SFLUSH of a range writes the team's dirty lines of the
range to their homes and leaves none of them; SINV, once the team's accesses to the range have been performed,
discards them without writing; a misaligned range raises ALIGN in both. DIRECTORY_RECALL writes one line back wherever
it is held. SMAP of an aligned range that its checks pass completes, while no access of the team is in flight on the
ranges concerned, and else changes nothing. (R107, R277, R278, R279, R280, R281, R282) -/
def Obligations.MappedStoreDirtiesLine : Prop :=
  (∀ (id n : Nat) (s : State) (p : Pending) (a : LaneAcc) (x : Team) (m : MapSlot), findPending s id = some p →
    allReady s p = true → p.kind = .store n → p.lanes = [a] → findTeam s p.team = some x → slotOf s (some p.team) a.va = some m →
    (∀ t ∈ s.teams, t.dirty = []) → tgtOfKey a.key = 0 → Plain s (64 * (a.key / 64)) 64 → a.key % 64 + n ≤ 64 →
    ∃ t y, exec (.storePerformed id) s = .next t ∧ SameMem s t ∧ findTeam t p.team = some y ∧
      y.dirty = [{ slot := m.slot, va := a.va - a.key % 64, key := 64 * (a.key / 64),
                   bytes := (s.mem.readN (64 * (a.key / 64)) 64).take (a.key % 64) ++ bytesOf n a.val ++
                     (s.mem.readN (64 * (a.key / 64)) 64).drop (a.key % 64 + (bytesOf n a.val).length) }]) ∧
  (∀ (f : MF) (i : Instr) (s : State) (a len : Nat) (ds : List DirtyLine), i = .sflush f ∨ i = .sinv f → Ready i s → s.acc = false →
    a = mEa s f 0 → len = (rdS s f.data.toNat).toNat → ds = dirtyIn s s.wave.team a len →
    (a % 64 ≠ 0 ∨ len % 64 ≠ 0 → ∃ t, exec i s = .next t ∧ Trapped s t 7 0 s.wave.cur.mask (addrW a) i) ∧
    (a % 64 = 0 → len % 64 = 0 → i = .sflush f →
      ∃ t u, exec i s = .next t ∧ Advances i s t ∧ SameV s t ∧ SameS s t ∧ SameK s t ∧
        u = ds.foldl (fun u d => memPut u d.key d.bytes) s ∧ t.mem = u.mem ∧ t.raw = u.raw ∧
        ∀ x, findTeam s s.wave.team = some x → ∃ y, findTeam t s.wave.team = some y ∧
          y.dirty = x.dirty.filter fun d => !(ds.any fun e => e.key == d.key)) ∧
    (a % 64 = 0 → len % 64 = 0 → i = .sinv f →
      (teamTouches s s.wave.team [(a % 2 ^ 52, len)] [] = true → exec i s = .next s) ∧
      (teamTouches s s.wave.team [(a % 2 ^ 52, len)] [] = false →
        ∃ t, exec i s = .next t ∧ Advances i s t ∧ SameV s t ∧ SameS s t ∧ SameK s t ∧ SameMem s t ∧
          ∀ x, findTeam s s.wave.team = some x → ∃ y, findTeam t s.wave.team = some y ∧
            y.dirty = x.dirty.filter fun d => !ds.contains d))) ∧
  (∀ (line : Nat) (s : State) (x : Nat) (d : DirtyLine), copyOwns s (64 * (line / 64)) 64 = false →
    findDirty s (64 * (line / 64)) = some (x, d) →
    ∃ t, exec (.directoryRecall line) s = .next t ∧ t.mem = (memPut s d.key d.bytes).mem ∧ t.raw = (memPut s d.key d.bytes).raw) ∧
  (∀ (f : RF) (a b c : BitVec 7) (s : State) (x : Team) (g o len : Nat), Ready (.smap f) s → s.acc = false →
    f.a = .s a → f.b = .s b → f.c = .s c → g = (rdS64 s a.toNat).toNat → o = (rdS s b.toNat).toNat → len = (rdS s c.toNat).toNat →
    findTeam s s.wave.team = some x → g % 4096 = 0 → o % 4096 = 0 → len % 4096 = 0 →
    (len ≠ 0 → canonical g = true ∧ o + len ≤ x.alloc ∧ mmioPage s g len = none) →
    (s.pend = [] → ∃ t, exec (.smap f) s = .next t ∧ Advances (.smap f) s t ∧ SameV s t ∧ SameS s t ∧ SameK s t) ∧
    (exec (.smap f) s = .next s ∨ ∃ t, exec (.smap f) s = .next t ∧ Advances (.smap f) s t))

/-- SMAP binds and unbinds a range, FENCE orders, PREF changes no value. SMAP of an aligned, canonical range within the
team's allocation, with pages whose kind allows it and no access in flight on the ranges concerned, completes:
overlapping slots and the slot itself are unbound, a nonzero length binds the slot, and memory changes only in the
bound part of the stash and where a dirty line of the team goes home. A misaligned G, O or L raises ALIGN, a region
beyond the allocation PAGE_PERM with subcause BOUND (the model's choice, assumption 17), both with G in TRAPADDR.
FENCE with ORD 00 only moves on; with another ORD, and for ORD 11 once the writes of the split's lanes are performed,
it marks those lanes: behind an acquire mark, no access of a lane is performed before the lane's earlier reads and
atomics, behind a release mark no write before any earlier access of the lane; marks and hold at every SCOPE are the
model's choice, assumption 22. PREF completes and changes no register, mask or byte of memory. (R273, R274, R277,
R278, R122, notes/assumptions/17.md, notes/assumptions/22.md) -/
def Obligations.MapSlotsFencesPrefetches : Prop :=
  (∀ (f : RF) (a b c : BitVec 7) (s : State) (x : Team) (g o len : Nat), Ready (.smap f) s → f.a = .s a → f.b = .s b → f.c = .s c →
    g = (rdS64 s a.toNat).toNat → o = (rdS s b.toNat).toNat → len = (rdS s c.toNat).toNat →
    findTeam s s.wave.team = some x → g % 4096 = 0 → o % 4096 = 0 → len % 4096 = 0 →
    (len ≠ 0 → canonical g = true ∧ o + len ≤ x.alloc ∧ mmioPage s g len = none) →
    let hit (m : MapSlot) : Bool :=
      m.slot == f.ty.toNat || rangesMeet m.o m.len o len || rangesMeet m.g m.len (g % 2 ^ 52) len
    let base := stashKey x.die x.core x.off
    teamTouches s x.id ((g % 2 ^ 52, len) :: (x.maps.filter hit).map fun m => (m.g, m.len))
      ((base + o, len) :: (x.maps.filter hit).map fun m => (base + m.o, m.len)) = false →
    s.mem.wf = true →
    ∃ t y, exec (.smap f) s = .next t ∧ Advances (.smap f) s t ∧ SameV s t ∧ SameS s t ∧ SameK s t ∧
      findTeam t s.wave.team = some y ∧
      y.maps = (if len = 0 then []
        else [{ slot := f.ty.toNat, g := g % 2 ^ 52, o := o, len := len, ro := f.md == 1#2 }]) ++ x.maps.filter (fun m => !hit m) ∧
      ∀ k, (k < base + o ∨ base + o + len ≤ k) → (∀ d ∈ x.dirty, k < d.key ∨ d.key + d.bytes.length ≤ k) → byteAt t k = byteAt s k) ∧
  (∀ (f : RF) (a b c : BitVec 7) (s : State) (x : Team) (g o len : Nat), Ready (.smap f) s → s.acc = false →
    f.a = .s a → f.b = .s b → f.c = .s c → g = (rdS64 s a.toNat).toNat → o = (rdS s b.toNat).toNat → len = (rdS s c.toNat).toNat →
    findTeam s s.wave.team = some x →
    (g % 4096 ≠ 0 ∨ o % 4096 ≠ 0 ∨ len % 4096 ≠ 0 →
      ∃ t, exec (.smap f) s = .next t ∧ Trapped s t 7 0 s.wave.cur.mask (rdS64 s a.toNat) (.smap f)) ∧
    (g % 4096 = 0 → o % 4096 = 0 → len % 4096 = 0 → len ≠ 0 → canonical g = true → x.alloc < o + len →
      ∃ t, exec (.smap f) s = .next t ∧ Trapped s t 9 6 s.wave.cur.mask (rdS64 s a.toNat) (.smap f))) ∧
  (∀ (f : MF) (s : State), Ready (.fence f) s → s.acc = false →
    (f.ord = 0#2 → ∃ t, exec (.fence f) s = .next t ∧ RegFrame s t ∧ Advances (.fence f) s t) ∧
    (f.ord = 3#2 → ownWrites false s = true → exec (.fence f) s = .next s) ∧
    (f.ord ≠ 0#2 → (f.ord = 3#2 → ownWrites false s = false) →
      ∃ t rest, exec (.fence f) s = .next t ∧ Advances (.fence f) s t ∧ ControlFrame s t ∧
        t.wave.marks = { lanes := s.wave.cur.mask, ord := f.ord.toNat, first := s.nextId } :: rest ∧
        (∀ m ∈ rest, m ∈ s.wave.marks) ∧
        ∀ m ∈ s.wave.marks, m ∉ rest → ∀ p ∈ s.pend, p.uid = s.wave.uid → m.first ≤ p.id)) ∧
  (∀ (s : State) (p q : Pending) (a b : LaneAcc) (m : FenceMark), q ∈ s.pend → q.id < p.id → isAccess q.kind = true → b ∈ q.lanes →
    sameAgent p a q b = true → m ∈ p.marks → m.lanes.has a.lane = true → q.id < m.first →
    (bitAt m.ord 0 = true ∧ (isLoad q.kind = true ∨ isAtomic q.kind = true)) ∨ (bitAt m.ord 1 = true ∧ isLoad p.kind = false) →
    laneReady s p a = false) ∧
  (∀ (f : MF) (s : State), Ready (.pref f) s → s.acc = false →
    ∃ t, exec (.pref f) s = .next t ∧ Advances (.pref f) s t ∧ ControlFrame s t)

/-- TLD, TST, HSET and HGET. HSET and HGET move a word between a handle and a scalar operand. TLD and TST with an active
lane and registers or a handle that do not agree raise ILLOP RESERVED. Otherwise, when every active lane's walk has
ended at an element or at its absence: the lanes with an element join the accesses in flight at the element's place;
TLD gives the lanes without one zeros and sets their bits of k[KM]; TST stores nothing for them, nor for a block
tensor; the bits of the other active lanes of k[KM] are cleared (by TST too: the model's choice, assumption 17; so is
the sign extension of VBASE and LTAB, assumption 43); nothing else changes, with an empty active set nothing at all.
(`issued` is the state with the issue's own bookkeeping, `v` that after the reads of the walks, which may recall dirty
lines.) (R285, R286, R287, R288, R289, notes/assumptions/17.md, notes/assumptions/43.md) -/
def Obligations.TensorAccesses : Prop :=
  (∀ (f : RF) (s : State), Ready (.hset f) s → s.acc = false →
    ∃ t, exec (.hset f) s = .next t ∧ Advances (.hset f) s t ∧ SameV s t ∧ SameS s t ∧ SameK s t ∧ SameMem s t ∧
      ∀ h w, w < 8 → rdH t h w =
        if h = (handleOf f.a).1 ∧ w = (handleOf f.a).2 then BitVec.ofNat 32 (src32 s f.b 0) else rdH s h w) ∧
  (∀ (f : RF) (s : State), Ready (.hget f) s → s.acc = false →
    ∃ t, exec (.hget f) s = .next t ∧ RegFrame s t ∧ Advances (.hget f) s t ∧ SameV s t ∧ SameK s t ∧
      WritesS s t f.d.toNat [rdH s (handleOf f.a).1 (handleOf f.a).2]) ∧
  (∀ (f : RF) (x : TensorX) (i : Instr) (o : Operand) (s : State), s.acc = false → Ready i s →
    (i = .tld f x ∧ o = .v f.d) ∨ (i = .tst f x ∧ o = f.b) → tensorBad s f (readHandle s x.hnd.toNat) o = true →
    ∃ t, exec i s = .next t ∧ Trapped s t 1 2 (actOf s f) 0 i) ∧
  (∀ (f : RF) (x : TensorX) (s v : State) (h : Handle) (ws : List (Nat × Walked)) (hits : List (Nat × Nat × Nat))
      (keys : List (Nat × Nat × Nat)), s.acc = false → Ready (.tld f x) s →
    h = readHandle s x.hnd.toNat → tensorBad s f h (.v f.d) = false →
    walkLanes h f.a (Mask.lanes (actOf s f)) (issued (.tld f x) s) = (v, ws) → gatherWalks v noMmio ws = none →
    hits = ws.filterMap (fun w => match w.2 with | .elem p => some (w.1, elemAt h p) | _ => none) →
    (hits ≠ [] → queued s < 16 ∧ (∀ y ∈ hits, y.2.1 % accSize (.tload h.ety.toNat h.sdb (h.ecount.getD 62)) = 0) ∧
      probe v s.wave.die s.wave.ctx (accSize (.tload h.ety.toNat h.sdb (h.ecount.getD 62))) (wantOf s true false noMmio)
        (hits.map fun w => (w.1, w.2.1)) = .ok keys) →
    ∃ t, exec (.tld f x) s = .next t ∧ Advances (.tld f x) s t ∧ SameS s t ∧ SameMem v t ∧
      t.pend = s.pend ++ (if hits = [] then [] else
        [newPending s (.tload h.ety.toNat h.sdb (h.ecount.getD 62)) 0 false f.d.toNat (tyRegs h.ety)
          (laneAccs keys (fun _ => 0) fun l => ((hits.find? fun w => w.1 == l).map (·.2.2)).getD 0)]) ∧
      WritesV s t (Mask.ofLanes ((ws.filter fun w => w.2 == .absent).map (·.1))) f.d.toNat
        (fun _ => List.replicate (tyRegs h.ety) 0) ∧
      WritesK s t x.km.toNat (actOf s f) fun l => ((ws.filter fun w => w.2 == .absent).map (·.1)).contains l) ∧
  (∀ (f : RF) (x : TensorX) (s v : State) (h : Handle) (ws : List (Nat × Walked)) (hits : List (Nat × Nat × Nat))
      (keys : List (Nat × Nat × Nat)), s.acc = false → Ready (.tst f x) s →
    h = readHandle s x.hnd.toNat → tensorBad s f h f.b = false →
    walkLanes h f.a (Mask.lanes (actOf s f)) (issued (.tst f x) s) = (v, ws) → gatherWalks v noMmio ws = none →
    hits = (if h.sdb then [] else ws.filterMap (fun w => match w.2 with | .elem p => some (w.1, elemAt h p) | _ => none)) →
    let k : AccKind := if h.ety = 14#4 then .tstore4 else .store (tyBits h.ety / 8)
    (hits ≠ [] → queued s < 16 ∧ (∀ y ∈ hits, y.2.1 % accSize k = 0) ∧
      probe v s.wave.die s.wave.ctx (accSize k) { wantOf s (h.ety == 14#4) true noMmio with store := true }
        (hits.map fun w => (w.1, w.2.1)) = .ok keys) →
    ∃ t, exec (.tst f x) s = .next t ∧ Advances (.tst f x) s t ∧ SameV s t ∧ SameS s t ∧ SameMem v t ∧
      t.pend = s.pend ++ (if hits = [] then [] else [newPending s k 0 false 0 0
        (laneAccs keys (tstVal s h.ety f.b) fun l => ((hits.find? fun w => w.1 == l).map (·.2.2)).getD 0)]) ∧
      WritesK s t x.km.toNat (actOf s f) fun l => !(hits.any fun w => w.1 == l))

/-! ### The Porter -/

/-- QPUSH, QPOP, QSTAT and QCLOSE on an operand queue. On a bound queue: QPUSH of a split, while no held fault of the wave
is to be raised, appends an entry with the active lanes valid and A as their elements while the queue has room, and
holds while it is full; QPOP takes the head entry into D and k[B] in the active lanes; QSTAT writes the status word;
QCLOSE by the producer side, or by either while there is none, closes the queue; other registers, memory and queues
stay. An unbound queue, the wrong side, a push on a closed queue and a pop of an empty closed one raise QUEUE with
subcauses 2, 3, 4 and 1 and the active set in TRAPMASK (the mask is the model's choice, assumption 13); while a stream
forms a faulted entry of it again, a closed queue counts as not yet empty. (R292, R303, R304, R306, R307, R310,
notes/assumptions/13.md) -/
def Obligations.QueueInstructions : Prop :=
  ∀ (f : RF) (s : State),
    (Ready (.qpush f) s → s.acc = false → heldFault s.wave = none →
      (∀ x, findQ s.wave (qOf f) = some x → x.prod ≠ .porter → x.closed = false →
        (x.entries.length < 16 → ∃ t es, exec (.qpush f) s = .next t ∧ Advances (.qpush f) s t ∧ ControlFrame s t ∧
          findQ t.wave (qOf f) = some { x with
            prod := .execute, entries := x.entries ++ [{ valid := actOf s f, elems := es, fault := none, src := [] }] } ∧
          (∀ l, l < 64 → Store.get 0 es l = if (actOf s f).has l then BitVec.ofNat 32 (src32 s f.a l) else 0) ∧
          ∀ q, q ≠ qOf f → findQ t.wave q = findQ s.wave q) ∧
        (16 ≤ x.entries.length → exec (.qpush f) s = .next s)) ∧
      (findQ s.wave (qOf f) = none →
        ∃ t, exec (.qpush f) s = .next t ∧ Trapped s t 0x0B 2 (actOf s f) 0 (.qpush f)) ∧
      (∀ x, findQ s.wave (qOf f) = some x → x.prod = .porter →
        ∃ t, exec (.qpush f) s = .next t ∧ Trapped s t 0x0B 3 (actOf s f) 0 (.qpush f)) ∧
      (∀ x, findQ s.wave (qOf f) = some x → x.prod ≠ .porter → x.closed = true →
        ∃ t, exec (.qpush f) s = .next t ∧ Trapped s t 0x0B 4 (actOf s f) 0 (.qpush f))) ∧
    (Ready (.qpop f) s → s.acc = false → heldFault s.wave = none →
      (∀ x e es, findQ s.wave (qOf f) = some x → x.prod ≠ .execute → isIndexQ s.wave (qOf f) = false →
        x.entries = e :: es → e.fault = none →
        ∃ t, exec (.qpop f) s = .next t ∧ Advances (.qpop f) s t ∧ SameS s t ∧ SameMem s t ∧
          WritesV s t (actOf s f) f.d.toNat (fun l => [Store.get 0 e.elems l]) ∧
          WritesK s t (match f.b with | .mask n => n.toNat | _ => 0) (actOf s f) (fun l => e.valid.has l) ∧
          findQ t.wave (qOf f) = some { x with entries := es }) ∧
      (∀ x, findQ s.wave (qOf f) = some x → x.prod ≠ .execute → isIndexQ s.wave (qOf f) = false → x.entries = [] →
        (x.closed = false ∨ reforming s.wave (qOf f) = true → exec (.qpop f) s = .next s) ∧
        (x.closed = true → reforming s.wave (qOf f) = false → ∃ t, exec (.qpop f) s = .next t ∧ Trapped s t 0x0B 1 (actOf s f) 0 (.qpop f)))) ∧
    (Ready (.qstat f) s →
      ∃ t, exec (.qstat f) s = .next t ∧ RegFrame s t ∧ Advances (.qstat f) s t ∧ SameV s t ∧ SameK s t ∧
        WritesS s t f.d.toNat [qstatWord (findQ s.wave (qOf f))]) ∧
    (∀ x, Ready (.qclose f) s → findQ s.wave (qOf f) = some x → x.prod ≠ (if s.acc then .execute else .porter) →
      ∃ t, exec (.qclose f) s = .next t ∧ Advances (.qclose f) s t ∧ SameV s t ∧ SameS s t ∧ SameK s t ∧ SameMem s t ∧
        findQ t.wave (qOf f) = some { x with closed := true })

/-- PLAUNCH, PSYNC, QLD and QST, and the Porter's events. PLAUNCH starts a thread at its target with the wave's s0 to s31
and binds exactly the queues of BIND. PSYNC takes the wave's next number and waits for its release; the thread's waits
at its own, and PSYNC_RELEASE lets both on. QLD and QST start a stream with the descriptor read at issue.
QLD_STREAM_ENTRY of an affine stream pushes an entry with the elements loaded (as memory holds them, or as they were
when a later access of the thread came to their place: the model's choice, assumption 39; so is one event for an
entry, assumption 18), QST_STREAM_ENTRY stores the valid elements of the head entry and takes it, and QUEUE_AUTO_CLOSE
closes an ended thread's queue. (`u` is the state with the wave in focus; places are those where values stand in
memory itself.) (R291, R295, R298, R299, R301, R307, R308, notes/assumptions/18.md, notes/assumptions/39.md) -/
def Obligations.AccessThreadAndStreams : Prop :=
  (∀ (f : RF) (x : PlaunchX) (s : State), Ready (.plaunch f x) s → s.acc = false → heldFault s.wave = none →
    (∀ h, s.wave.thread = some h → h.done = true) → s.wave.streams = [] → (∀ n, n < 32 → emptyIn s 0 (.s n) = false) →
    (∀ c ∈ s.wave.splits, ∀ n, c.sync = some n → n ≤ s.wave.released) →
    boundQueues s + ((List.range 16).filter fun n => x.bind.getLsbD n && (findQ s.wave n).isNone).length ≤ 16 →
    ∃ t h, exec (.plaunch f x) s = .next t ∧ Advances (.plaunch f x) s t ∧ SameMem s t ∧ SameV s t ∧ SameK s t ∧
      t.wave.s = s.wave.s ∧ t.wave.thread = some h ∧ h.pc = s.wave.cur.pc + x.off.signExtend 49 ∧ h.done = false ∧
      h.fault = none ∧ h.psync = 0 ∧ (∀ n, n < 32 → Store.get 0 h.regs n = Store.get 0 s.wave.s n) ∧ t.wave.psync = 0 ∧
      ∀ q, q < 16 →
        (x.bind.getLsbD q = false → findQ t.wave q = none) ∧
        (x.bind.getLsbD q = true → findQ s.wave q = none → findQ t.wave q = some (newQ q)) ∧
        (∀ y, x.bind.getLsbD q = true → findQ s.wave q = some y → ∃ z, findQ t.wave q = some z ∧ z.entries = y.entries ∧
          z.prod = y.prod)) ∧
  (∀ (f : RF) (s : State), Ready (.psync f) s →
    (s.acc = false → heldFault s.wave = none → s.wave.cur.sync = none →
      ∃ t, exec (.psync f) s = .next t ∧ ControlFrame s t ∧ t.wave.cur.pc = s.wave.cur.pc ∧
        t.wave.cur.sync = some (s.wave.psync + 1) ∧ t.wave.psync = s.wave.psync + 1) ∧
    (∀ n, s.acc = false → heldFault s.wave = none → s.wave.cur.sync = some n →
      (n ≤ s.wave.released → ∃ t, exec (.psync f) s = .next t ∧ Advances (.psync f) s t ∧ ControlFrame s t ∧
        t.wave.cur.sync = none) ∧
      (s.wave.released < n → exec (.psync f) s = .next s)) ∧
    (∀ h, s.acc = true → s.wave.thread = some h →
      (h.atSync = false → ∃ t, exec (.psync f) s = .next t ∧ SameMem s t ∧
        t.wave.thread = some { h with atSync := true, issued := s.cycle }) ∧
      (h.atSync = true → exec (.psync f) s = .next s))) ∧
  (∀ (uid : Nat) (s u : State) (h : Thread), u = { focusWave uid s with acc := false } → u.wave.uid = uid →
    ctxRuns u u.wave.ctx = true → psyncReady u = true → u.wave.thread = some h →
    ∃ t k, exec (.psyncRelease uid) s = .next t ∧ t.wave.released = u.wave.released + 1 ∧ t.wave.thread = some k ∧
      k.pc = h.pc + 1 ∧ k.psync = h.psync + 1 ∧ k.atSync = false ∧ k.regs = h.regs ∧ SameMem s t ∧ t.bg = u.bg) ∧
  (∀ (i : Instr) (isLoad : Bool) (f : RF) (x : StreamX) (s : State), i = (if isLoad then .qld f x else .qst f x) → Ready i s →
    s.wave.streams.length < 4 → ((subWaves s).map fun w => w.streams.length).foldl (· + ·) 0 < 16 →
    ∃ t y, exec i s = .next t ∧ Advances i s t ∧ SameV s t ∧ SameS s t ∧ SameK s t ∧ SameMem s t ∧
      t.wave.streams = s.wave.streams ++ [y] ∧ y.isLoad = isLoad ∧ y.indexed = (x.mode == 1#2) ∧
      y.base = rdS64 s (match f.a with | .s n => n.toNat | _ => 0) ∧ y.qd = x.qd.toNat ∧ y.next = 0 ∧ y.fault = none ∧
      (x.mode = 0#2 → ∀ d, d ≤ x.ndim.toNat →
        y.counts[d]? = some (rdS s ((match f.a with | .s n => n.toNat | _ => 0) + 2 + 2 * d)).toNat ∧
        y.strides[d]? = some (rdS s ((match f.a with | .s n => n.toNat | _ => 0) + 3 + 2 * d)))) ∧
  (∀ (uid st : Nat) (s u : State) (y : PStream) (q : OpQueue) (ks : List (Nat × Nat × Nat)),
    u = { focusWave uid s with acc := false } → u.wave.uid = uid → ctxRuns u u.wave.ctx = true → u.wave.parked = none →
    u.wave.streams.find? (fun t => t.id == st) = some y → y.indexed = false → y.fault = none →
    y.next < streamCount y → earlierUser u.wave y = false → u.wave.liveLanes ≠ 0#64 → findQ u.wave y.qd = some q →
    (∀ k ∈ ks, AtHome u u.wave.team k.2.1 k.2.2 (mtySize y.mty) ∧ k.1 < 64) → (ks.map (·.1)).Nodup →
    (y.isLoad = true → y.stopped = false → q.prod ≠ .execute → q.closed = false → q.entries.length < 16 →
      probeEntry u y (affineLanes u.wave.width y) = .ok ks →
      ∃ t e, exec (.qldStreamEntry uid st) s = .next t ∧ SameMem s t ∧
        findQ t.wave y.qd = some { q with prod := if q.prod = .none then .porter else q.prod, entries := q.entries ++ [e] } ∧
        e.fault = none ∧ e.valid = Mask.ofLanes (ks.map (·.1)) ∧
        ∀ k ∈ ks, Store.get 0 e.elems k.1 = (loadRegs y.mty.toNat (y.sees k.2.2 (s.mem.readN k.2.2 (mtySize y.mty)))).headD 0) ∧
    (∀ e es, y.isLoad = false → q.prod ≠ .porter → q.entries = e :: es →
      probeEntry u y ((affineLanes u.wave.width y).filter fun a => e.valid.getLsbD a.1) = .ok ks →
      ∃ t, exec (.qstStreamEntry uid st) s = .next t ∧ findQ t.wave y.qd = some { q with entries := es } ∧
        t.mem = ks.foldl (fun m k =>
          m.writeN k.2.2 (bytesOf (mtySize y.mty) (storeVal y.mty.toNat (Store.get 0 e.elems k.1).toNat))) s.mem)) ∧
  (∀ (uid q : Nat) (s u : State) (h : Thread) (x : OpQueue), u = focusWave uid s → u.wave.uid = uid →
    u.wave.thread = some h → h.done = true → (∀ y ∈ u.wave.streams, y.isLoad = true → y.qd ≠ q) →
    findQ u.wave q = some x → x.prod = .porter →
    ∃ t, exec (.queueAutoClose uid q) s = .next t ∧ findQ t.wave q = some { x with closed := true } ∧ SameMem s t)

/-! ### The Courier and the matrix unit -/

/-- Copies issue under a tag, run chunk by chunk and signal their end. A copy instruction that the Courier can take (a tag
free, room in its queue, names that can be bound and are owed nothing) and whose operands pass its limit and alignment
checks and whose destination and signal translate writes the lowest free tag to D and records the copy under it, busy
and not begun; a limit or alignment that fails traps. TWAIT completes when the named tags of the team are set (any
with .any), and with none named; TFFR gives the lowest set one; TCLR frees those set. COPY_CHUNK begins a copy, and
each chunk of a running one moves its units, for CPYQ its entries, or for CPYS a block's terms, metadata and residual
entries with the status at the last block, where memory holds the values; COPY_COMPLETE sets the tag and takes one
from the signal. (R325, R328, R332, R334, R335, R336, R337, R338, R339, R340, R344, R345) -/
def Obligations.CopiesIssueAndRun : Prop :=
  (∀ (i : Instr) (f : RF) (x : CopyX) (cmd : Command) (s : State), copyCommand i s = some (f, x, cmd) → Ready i s →
    s.acc = false → ∀ tag, freeTag s s.wave.die s.wave.core = some tag →
    let checks := cmd.aligns ++ match sigAddr x s with | some a => [(a % 8 == 0, a)] | none => []
    (cmd.limits = false → ∃ t, exec i s = .next t ∧ Trapped s t 1 2 s.wave.all 0 i) ∧
    (∀ a, cmd.limits = true → checks.find? (fun y => !y.1) = some a →
      ∃ t, exec i s = .next t ∧ Trapped s t 7 0 s.wave.all (addrW a.2) i) ∧
    (∀ ds ks, cmd.limits = true → (∀ y ∈ checks, y.1 = true) →
      placesOf s s.wave.die s.wave.ctx (probeWant s dstWant) (destPieces cmd.copy) = .ok ds →
      placesOf s s.wave.die s.wave.ctx (probeWant s sigWant) (match sigAddr x s with | some a => [(a, 8)] | none => []) = .ok ks →
      ∃ t y c, exec i s = .next t ∧ Advances i s t ∧ SameV s t ∧ SameK s t ∧ SameMem s t ∧
        WritesS s t f.d.toNat [BitVec.ofNat 32 tag] ∧ t.tags = s.tags ++ [y] ∧ y.die = s.wave.die ∧ y.core = s.wave.core ∧
        y.tag = tag ∧ y.state = .busy ∧ y.team = some s.wave.team ∧ y.copy = some c ∧ c.kind = cmd.copy.kind ∧
        c.src = cmd.copy.src ∧ c.dst = cmd.copy.dst ∧ c.aux = cmd.copy.aux ∧ c.next = 0 ∧ c.started = false ∧
        c.dest = joinRuns ds ∧ c.owned = joinRuns ds ∧ c.uid = s.wave.uid ∧ c.sup = s.wave.cur.h ∧
        c.sig = (sigAddr x s).bind fun a => ks.head?.map fun k => (a, k.1))) ∧
  (∀ (f : RF) (s : State), s.acc = false → tagFault f s = none →
    (Ready (.twait f) s →
      (if namedTags f s = [] ∨ (if f.md = 1#2 then ∃ y ∈ namedTags f s, y.state = .set else ∀ y ∈ namedTags f s, y.state = .set)
       then ∃ t, exec (.twait f) s = .next t ∧ RegFrame s t ∧ Advances (.twait f) s t ∧ SameV s t ∧ SameS s t ∧ SameK s t
       else exec (.twait f) s = .next s)) ∧
    (Ready (.tffr f) s → ∃ t, exec (.tffr f) s = .next t ∧ Advances (.tffr f) s t ∧ SameV s t ∧ SameK s t ∧ SameMem s t ∧
      WritesS s t f.d.toNat [match (namedTags f s).find? fun y => y.state == .set with
        | some y => BitVec.ofNat 32 y.tag
        | none => 0xFFFFFFFF#32] ∧
      ∀ n, findTag t s.wave.die s.wave.core n =
        if f.md = 1#2 ∧ ((namedTags f s).find? fun y => y.state == .set).map (·.tag) = some n then none
        else findTag s s.wave.die s.wave.core n)) ∧
  (∀ (f : RF) (s : State), s.acc = false → Ready (.tclr f) s →
    ∃ t, exec (.tclr f) s = .next t ∧ Advances (.tclr f) s t ∧ SameV s t ∧ SameS s t ∧ SameK s t ∧ SameMem s t ∧
      ∀ n, findTag t s.wave.die s.wave.core n =
        if (namedTags f s).any (fun y => y.tag == n && y.state == .set) then none
        else findTag s s.wave.die s.wave.core n) ∧
  (∀ (die core tag : Nat) (s : State) (y : Tag) (c : Copy), findTag s die core tag = some y → y.state = .busy →
    y.copy = some c → ctxRuns s c.ctx = true → c.stale = false →
    (c.started = false → mayBegin s y c = true → ∃ t z, exec (.copyChunk die core tag) s = .next t ∧
      findTag t die core tag = some z ∧ z.copy = some { c with started := true } ∧ t.mem = s.mem) ∧
    (∀ ks, c.started = true → c.next < chunkCount c → 0 < unitCount c → NoDirty s →
      placesOf s die c.ctx (readWant c) ((chunkUnits c).filterMap fun u => u.1.src.map fun a => (a, u.1.len)) = .ok ks →
      (∀ u ∈ chunkUnits c, Plain s u.2 (unitLen c) ∧ otherOwns s c true u.2 (unitLen c) = false) →
      (∀ k ∈ ks, Plain s k.1 k.2 ∧ otherOwns s c false k.1 k.2 = false ∧ ∀ b, b < k.2 → ownDest c (k.1 + b) = false) →
      ∃ t z c', exec (.copyChunk die core tag) s = .next t ∧ findTag t die core tag = some z ∧ z.copy = some c' ∧
        c'.next = c.next + 1 ∧
        t.mem = (chunkUnits c).foldl (fun m u => m.writeN u.2 (movedBytes s die c u.1)) s.mem) ∧
    (∀ st rows pitch step n ks w x, c.kind = .cpyq st rows pitch step n → c.started = true → c.next < chunkCount c → NoDirty s →
      earlierFill s c = false → roomFor s c (min 4 (n - 4 * c.next)) = true →
      let src (e r : Nat) : Nat := addr64 ((c.src.toNat : Int) + (4 * c.next + e : Nat) * step.toInt + r * pitch.toInt)
      placesOf s die c.ctx (readWant c) ((List.range (min 4 (n - 4 * c.next))).flatMap fun e =>
        (List.range rows).map fun r => (src e r, 64)) = .ok ks →
      (∀ k ∈ ks, Plain s k.1 k.2 ∧ otherOwns s c false k.1 k.2 = false) → findWave c.uid s = some w → w.live = true →
      findMs w (st / 4) (st % 4) = some x → rows ≤ 16 →
      ∃ t w' x', exec (.copyChunk die core tag) s = .next t ∧ findWave c.uid t = some w' ∧
        findMs w' (st / 4) (st % 4) = some x' ∧ t.mem = s.mem ∧
        x'.entries = x.entries ++ (List.range (min 4 (n - 4 * c.next))).map fun e => (List.range 16).flatMap fun r =>
          if r < rows then s.mem.readN ((ks.getD (e * rows + r) (0, 0)).1) 64 else List.replicate 64 0) ∧
    (∀ st fm pat terms ety drop cp nk cap bound ks w x f, c.kind = .cpys st fm pat terms ety drop cp nk cap bound →
      c.started = true → c.next < chunkCount c → NoDirty s → earlierFill s c = false →
      roomFor s c (sparseEntries pat terms).length = true → placesOf s die c.ctx (readWant c) (sparsePieces c cp) = .ok ks →
      (∀ k ∈ ks, Plain s k.1 k.2 ∧ otherOwns s c false k.1 k.2 = false ∧ ∀ b, b < k.2 → ownDest c (k.1 + b) = false) →
      let cols := (List.range 16).map fun j => (List.range 4).flatMap fun q => s.mem.readN ((ks.getD (4 * j + q) (0, 0)).1) 64
      let outs := sparseWrites c pat terms ety drop nk cap bound cols
      (∀ o ∈ outs, o.2.1 < 2 ^ 80 ∧ placeHeld o.2.1 = true ∧ otherOwns s c true o.2.1 o.2.2.length = false) →
      findWave c.uid s = some w → w.live = true → findMs w 1 (st % 4) = some x → findMs w 2 fm = some f →
      ∃ t z w' x' f' d, exec (.copyChunk die core tag) s = .next t ∧ findTag t die core tag = some z ∧ z.copy = some d ∧
        d.next = c.next + 1 ∧ d.rcount = c.rcount + (sparseResidual c.next pat terms ety cols).length ∧
        findWave c.uid t = some w' ∧ findMs w' 1 (st % 4) = some x' ∧ findMs w' 2 fm = some f' ∧
        x'.entries = x.entries ++ sparseVals pat terms ety cols ∧ f'.entries = f.entries ++ sparsePlaces pat terms ety cols ∧
        t.mem = outs.foldl (fun m o => m.writeN o.2.1 o.2.2) s.mem) ∧
    (c.started = true ∨ chunkCount c = 0 → chunkCount c ≤ c.next →
      (∀ k, c.sig = some k → Plain s k.2 8 ∧ NoDirty s ∧ copyOwns s k.2 8 = false ∧
        (s.owed.any fun x => x.ctx == c.ctx && x.va == k.1) = false) →
      ∃ t, exec (.copyComplete die core tag) s = .next t ∧
        t.mem = (match c.sig with
          | some k => s.mem.writeN k.2 (bytesOf 8 ((placeNat s.mem k.2 8 + (2 ^ 64 - 1)) % 2 ^ 64))
          | none => s.mem) ∧
        (y.queue = none → ∃ z, findTag t die core tag = some z ∧ z.state = .set ∧ z.copy = none) ∧
        (y.queue ≠ none → findTag t die core tag = none)))

/-- Matrix instructions queue, and K_STEP applies their steps. A matrix instruction, once the checks pass (no queued one
of the wave names its tile, the queue and the tiles have room), when the entries it needs are present or owed, joins
the wave's queue with the values it reads and the MODE of its issue, which its steps use (the model's choice,
assumption 15); its tiles are bound, their elements unchanged; without the entries it raises QUEUE, subcause 5; MRES
traps on an index that names no element. K_STEP of the wave whose turn it is applies the next step of its first
instruction: each element of the tile is the element plus the step's exact sum, rounded once; or what MZERO, MWR, MRD
and MSTAT write. Under MODE.STRICT a reserved block stops the context instead. (R92, R356, R357, R358, R360, R361,
R363, R364, R365, R366, R367, notes/assumptions/15.md) -/
def Obligations.MatrixInstructions : Prop :=
  (∀ (i : Instr) (vals idxs : List W32) (s : State), matrixReads i s = some (vals, idxs) → Ready i s → s.acc = false →
    (match i with
      | .mres _ => (∀ x ∈ idxs, x.toNat < 256 ∨ x = 0xFFFFFFFF#32)
      | _ => True) →
    (isDry s.wave i = true → ∃ t, exec i s = .next t ∧ Trapped s t 0x0B 5 s.wave.all 0 i) ∧
    (isDry s.wave i = false → ∃ t, exec i s = .next t ∧ Advances i s t ∧ ControlFrame s t ∧
      t.wave.mcmds = s.wave.mcmds ++
        [{ instr := i, pc := s.wave.cur.pc, entry := s.wave.cur.idx, step := 0, vals := vals, idxs := idxs, mode := s.wave.mode }] ∧
      (∀ n ∈ tilesOf i, (findTile t.wave n).isSome = true) ∧ (∀ n x, tileElem t.wave n x = tileElem s.wave n x) ∧
      (∀ f, i = .mrd f → ∀ j q, j < 256 / s.wave.width → 4 * q < s.wave.width → q < 16 →
        emptyIn t q (.v (f.d.toNat + j)) = true) ∧
      (∀ f, i = .mstat f → emptyIn t 0 (.s f.d.toNat) = true))) ∧
  (∀ (f : RF) (s : State), Ready (.mres f) s → s.acc = false →
    let bad (l : Nat) : Bool := 256 ≤ src32 s f.b l && src32 s f.b l != 0xFFFFFFFF
    (∃ l, l < s.wave.width ∧ bad l = true) →
    ∃ t, exec (.mres f) s = .next t ∧ Trapped s t 1 2 (Mask.ofLanes ((List.range s.wave.width).filter bad)) 0 (.mres f)) ∧
  (∀ (die core sub : Nat) (s u : State) (w : Wave) (c : MCmd) (rest : List MCmd),
    nextWave ((((findDie s die).rr.find? fun r => r.1 == 8 * core + sub).map (·.2)).getD 63) (startable s die core sub) = some w →
    u = focusWave w.uid s → u.wave = w → u.wave.mcmds = c :: rest →
    (reservedRows u.wave c ≠ 0 → c.mode.getLsbD 7 = true → ∀ x, findCtx s u.wave.ctx = some x → x.state = .running →
      ∃ t y, exec (.kStep die core sub) s = .next t ∧ t.wave = u.wave ∧ findCtx t u.wave.ctx = some y ∧ y.state = .halting ∧
        y.reason = .fatal) ∧
    (reservedRows u.wave c = 0 ∨ c.mode.getLsbD 7 = false → (∀ n ∈ tilesOf c.instr, (findTile u.wave n).isSome = true) →
      ∃ t, exec (.kStep die core sub) s = .next t ∧ t.mem = s.mem ∧ t.bg = u.bg ∧
        t.wave.mcmds = (if stepsOf c.instr ≤ c.step + 1 then rest else { c with step := c.step + 1 } :: rest) ∧
        (addsToTile c = true → ∀ n ∈ tilesOf c.instr, ∀ i j, i < 16 → j < 16 →
          tileElem t.wave n (16 * i + j) = match stepSum c u.wave i j with
            | some x => accumulate c.mode (tileElem u.wave n (16 * i + j)) x
            | none => tileElem u.wave n (16 * i + j)) ∧
        (∀ f, c.instr = .mzero f → ∀ n x, f.d.getLsbD n = true → n < 8 → tileElem t.wave n x = 0) ∧
        (∀ f, c.instr = .mwr f → c.vals.length = 256 → ∀ x, x < 256 → tileElem t.wave (tileOf f) x = c.vals.getD x 0) ∧
        (∀ f, c.instr = .mrd f → u.wave.width = 16 ∨ u.wave.width = 32 ∨ u.wave.width = 64 → ∀ x, x < 256 →
          vAt t (f.d.toNat + x / u.wave.width) (x % u.wave.width) = tileElem u.wave (tileOf f) x ∧
          (f.md = 1#2 → tileElem t.wave (tileOf f) x = 0)) ∧
        (∀ f, c.instr = .mstat f → Store.get 0 t.wave.s f.d.toNat = mstatWord f.md.toNat u.wave)))

/-! ### Textures and raster batches -/

/-- Texture requests issue with their descriptors, and complete with the filtered texels. TEX and TEXG with no active lane
only move on. With active lanes, room in the unit's queue, and the image and sampler read aligned and free of reserved
values, and every texel translated, they issue: the request holds the descriptors, each lane's coordinates and its
level, and the texels' places, and D to D + 3 await it. A reserved descriptor value, also a BASE or PITCH that breaks
its constraint, raises ILLOP with the descriptor's address and all active lanes in TRAPMASK (of BASE and PITCH, and of
the mask, the model's choice, assumption 32). TEXQ issues with the value its form names; a level above 15 raises
ILLOP. TEXTURE_COMPLETE of the wave's first such request writes each lane's four channels, filtered from the texels in
memory, or TEXQ's value, and the request is gone. (`v` is the state after the reads of the descriptors, which may
recall dirty lines.) (R469, R470, R471, R472, R473, R474, R475, R476, R477, R478, notes/assumptions/32.md) -/
def Obligations.TextureInstructions : Prop :=
  (∀ (i : Instr) (f : RF) (x : TexX) (grad : Bool) (s : State), i = (if grad then .texg f x else .tex f x) → Ready i s →
    s.acc = false →
    (actOf s f = 0#64 → ∃ t, exec i s = .next t ∧ RegFrame s t ∧ Advances i s t ∧ SameV s t ∧ SameS s t ∧ SameK s t) ∧
    (∀ img smp v, actOf s f ≠ 0#64 → texQueued s < 16 → texWaits s false (actOf s f) = false →
      (rdS64 s x.img.toNat).toNat % 32 = 0 → (rdS64 s x.smp.toNat).toNat % 16 = 0 →
      plainReads false [] [((Mask.first (actOf s f)).getD 0, (rdS64 s x.img.toNat).toNat, 32),
        ((Mask.first (actOf s f)).getD 0, (rdS64 s x.smp.toNat).toNat, 16)] (issued i s) = (v, [.val img, .val smp]) →
      (imgClean img = false → ∃ t, exec i s = .next t ∧ Trapped s t 1 2 (actOf s f) (rdS64 s x.img.toNat) i) ∧
      (imgClean img = true → smpClean smp = false →
        ∃ t, exec i s = .next t ∧ Trapped s t 1 2 (actOf s f) (rdS64 s x.smp.toNat) i) ∧
      (∀ ls keys, imgClean img = true → smpClean smp = true →
        ls = (Mask.lanes (actOf s f)).map
          (fun l => (l, srcBits s 10 f.a l, srcBits s 10 f.b l, laneLambda s f grad (imgOf img) smp l)) →
        probe v s.wave.die s.wave.ctx (texelSize (imgOf img).fmt) (wantOf s true false [])
          (ls.flatMap fun y => (texAddrs (imgOf img) smp y.2.1 y.2.2.1 y.2.2.2).map fun a => (y.1, a)) = .ok keys →
        ∃ t p, exec i s = .next t ∧ Advances i s t ∧ SameV s t ∧ SameS s t ∧ SameK s t ∧ SameMem v t ∧ t.pend = s.pend ++ [p] ∧
          p.kind = .texture ∧ p.id = s.nextId ∧ p.uid = s.wave.uid ∧ p.dst = f.d.toNat ∧ p.ndst = 4 ∧
          p.args = img :: smp :: ls.flatMap (fun y => [y.1, y.2.1, y.2.2.1, y.2.2.2]) ∧
          p.lanes.map (fun a => (a.lane, a.va, a.key)) = keys ∧
          ∀ l j, (actOf s f).has l = true → l < 64 → j < 4 → emptyIn t (l / 4) (.v (f.d.toNat + j)) = true))) ∧
  (∀ (f : RF) (n : BitVec 7) (s : State), f.a = .s n → Ready (.texq f) s → s.acc = false →
    (15 < src32 s f.b 0 → ∃ t, exec (.texq f) s = .next t ∧ Trapped s t 1 2 s.wave.cur.mask 0 (.texq f)) ∧
    (∀ img v, src32 s f.b 0 ≤ 15 → texQueued s < 16 → texWaits s true 0 = false → (rdS64 s n.toNat).toNat % 32 = 0 →
      plainReads true [] [(0, (rdS64 s n.toNat).toNat, 32)] (issued (.texq f) s) = (v, [.val img]) → imgClean img = true →
      ∃ t p, exec (.texq f) s = .next t ∧ Advances (.texq f) s t ∧ SameV s t ∧ SameS s t ∧ SameK s t ∧ SameMem v t ∧
        t.pend = s.pend ++ [p] ∧ p.kind = .texture ∧ p.scalar = true ∧ p.dst = f.d.toNat ∧
        p.args = [texqVal (imgOf img) f.md.toNat (src32 s f.b 0)] ∧ emptyIn t 0 (.s f.d.toNat) = true)) ∧
  (∀ (id : Nat) (s : State) (p : Pending) (w : Wave), findPending s id = some p → p.kind = .texture →
    inTurn s p (· == .texture) = true → (∀ a ∈ p.lanes, copyOwns s a.key (texelSize (imgOf (p.args.headD 0)).fmt) = false ∧
      AtHome s p.team a.va a.key (texelSize (imgOf (p.args.headD 0)).fmt)) →
    findWave p.uid s = some w → w.live = true → p.thread = false →
    ∃ t w', exec (.textureComplete id) s = .next t ∧ findWave p.uid t = some w' ∧ findPending t id = none ∧ SameMem s t ∧
      (p.scalar = true → replyReg p w' 0 0 = BitVec.ofNat 32 (p.args.headD 0)) ∧
      (p.scalar = false → (∀ y ∈ texLanes (p.args.drop 2), y.1 < 64) → ((texLanes (p.args.drop 2)).map (·.1)).Nodup →
        ∀ y ∈ texLanes (p.args.drop 2), ∀ j, j < 4 →
          replyReg p w' y.1 j = BitVec.ofNat 32 ((texLane (imgOf (p.args.getD 0 0)) (p.args.getD 1 0) y.2.1 y.2.2.1 y.2.2.2
            (fun a => match p.lanes.find? fun x => x.lane == y.1 && x.va == a with
              | some x => s.mem.readN x.key (texelSize (imgOf (p.args.getD 0 0)).fmt)
              | none => List.replicate (texelSize (imgOf (p.args.getD 0 0)).fmt) 0)).getD j 0) ∧
          (p.ndst = 4 → w'.vEmpty.contains (16 * (p.dst + j) + y.1 / 4) = false)))

/-- A raster batch is queued, cut into tiles, emitted as quads and ended with its status. RAST with a well-formed
descriptor, within the depth and with a known ENTRY, joins its die's raster queue when there is room and the wave's
accesses before it are performed, and D awaits its status; a reserved field raises ILLOP (`v` is the state after the
read of the descriptor, which may recall a dirty line). RAST_PHASE1 of the head batch reads its items and lays out its
tiles; RAST_TILE takes the next tile, and each of its quads holds four records with the coverage that the rule gives
each pixel, not all zero; QUAD_EMIT appends a quad's records to the bin of its key; RAST_BATCH_COMPLETE adds the
totals to the statistics block, writes the status to D and ends the batch. (R458, R459, R461, R462, R463, R464, R465,
R466, R467) -/
def Obligations.RasterBatches : Prop :=
  (∀ (f : RF) (x : RastX) (n : BitVec 7) (d : Nat) (s v : State), f.a = .s n → Ready (.rast f x) s → s.acc = false →
    texWaits s false s.wave.cur.mask = false → texWaits s true 0 = false →
    plainRead (issued (.rast f x) s) true [] 0 (rdS64 s n.toNat).toNat 64 64 = (v, .val d) →
    let fld (off k : Nat) : Nat := bytesAt (bytesOf 64 d) off k
    ((fld 0x12 2 ≠ 0 ∨ fld 0x24 4 ≠ 0 ∨ fld 0x30 16 ≠ 0) →
      ∃ t, exec (.rast f x) s = .next t ∧ Trapped s t 1 2 s.wave.cur.mask (rdS64 s n.toNat) (.rast f x)) ∧
    (∀ key, fld 0x12 2 = 0 → fld 0x24 4 = 0 → fld 0x30 16 = 0 → fld 8 8 % 32 = 0 → fld 0x28 8 % 64 = 0 →
      (if fld 0x28 8 = 0 then Xl.ok 0 else translate v s.wave.die s.wave.ctx (fld 0x28 8) 64 (wantOf s true true noMmio)) = .ok key →
      (x.noemit = false → ((findGrid s s.wave.grid).map (·.depth)).getD 0 < 10 ∧
        (entryKern v v.wave (fld 0 8 % 2 ^ 52)).isSome = true) → rastQueued s s.wave.die < 8 →
      ∃ t b, exec (.rast f x) s = .next t ∧ Advances (.rast f x) s t ∧ SameV s t ∧ SameS s t ∧ SameK s t ∧ SameMem v t ∧
        (findDie t s.wave.die).raster = (findDie s s.wave.die).raster ++ [b] ∧ b.id = s.nextId ∧ b.bytes = bytesOf 64 d ∧ b.sup = s.wave.cur.h ∧
        b.phase = 0 ∧ b.rule = x.rule.toNat ∧ b.kind = x.kind.toNat ∧ b.noemit = x.noemit ∧
        b.statKey = (if fld 0x28 8 = 0 then none else some key) ∧ emptyIn t 0 (.s f.d.toNat) = true)) ∧
  (∀ (die : Nat) (s : State) (b : Batch), rastHead s die = some b →
    (∀ u c, b.phase = 0 → (∀ q ∈ s.pend, q.uid = b.uid → q.thread = false → q.id < b.id → isAccess q.kind = false) →
      readItems die (b.fld 0x10 2) 0 b s = (u, some c) →
      ∃ t, exec (.rastPhase1 die) s = .next t ∧
        (if c.phase = 2 then c else { c with phase := 1, tiles := rastTiles c.cells }) ∈ (findDie t die).raster) ∧
    (∀ tile rest, b.tiles = tile :: rest → b.phase = 1 → b.quads = [] →
      ∃ t c, exec (.rastTile die) s = .next t ∧ c ∈ (findDie t die).raster ∧ c.id = b.id ∧ c.tiles = rest ∧
        c.ntiles = b.ntiles + 1 ∧ t.mem = s.mem ∧
        ∀ q ∈ c.quads, ∃ (item : Nat) (i j : Int), (i, j) ∈ b.tileQuads tile ∧
          let cov (p : Int × Int) : Nat := if b.inClip p.1 p.2 then
            coverage b.rule (windingAt (b.cells.filter fun e => e.r / 64 == tile.2 && e.item == item) p.1 p.2) else 0
          q = b.quadRecs item i j [cov (i, j), cov (i + 1, j), cov (i, j + 1), cov (i + 1, j + 1)] ∧
          [cov (i, j), cov (i + 1, j), cov (i, j + 1), cov (i + 1, j + 1)] ≠ [0, 0, 0, 0]) ∧
    (∀ g k q rest, b.quads = q :: rest → q ≠ [] → batchKern s die b = some (g, k) →
      binRoom s die b.grid 4 [rastKey (b.fld 0 8)] = true →
      ∃ t, exec (.quadEmit die) s = .next t ∧ { b with quads := rest } ∈ (findDie t die).raster ∧ t.mem = s.mem ∧
        (keyBin t die g.uid (rastKey (b.fld 0 8))).map (·.recs) =
          some (((keyBin s die g.uid (rastKey (b.fld 0 8))).map (·.recs)).getD [] ++ q.map fun ws => { words := ws, age := 0 })) ∧
    (∀ p w, b.phase = 2 ∨ (b.phase = 1 ∧ b.tiles = [] ∧ b.quads = []) → NoDirty s → (∀ k, b.statKey = some k → Plain s k 64 ∧ copyOwns s k 64 = false) →
      findPending s b.id = some p → findWave p.uid s = some w → w.live = true → p.thread = false → p.scalar = true →
      ∃ t w', exec (.rastBatchComplete die) s = .next t ∧ (∀ c ∈ (findDie t die).raster, c.id ≠ b.id) ∧
        findPending t b.id = none ∧ findWave p.uid t = some w' ∧ replyReg p w' 0 0 = BitVec.ofNat 32 b.status ∧
        (b.statKey = none → t.mem = s.mem) ∧
        (∀ k, b.statKey = some k → b.code = 0 → ∀ j, j < 7 → placeNat t.mem (k + 8 * j) 8 = (placeNat s.mem (k + 8 * j) 8 +
          [b.items, b.badItems, b.segs, b.ntiles, b.nquads, b.frags, b.covsum].getD j 0) % 2 ^ 64) ∧
        (∀ k, b.statKey = some k → b.code = 1 → placeNat t.mem (k + 0x38) 8 = b.faddr % 2 ^ 64) ∧
        (∀ k a, b.statKey = some k → a < k ∨ k + 64 ≤ a → byteAt t a = byteAt s a)))

/-! ### The dispatcher -/

/-- Queue slots, fetching, wait lists and the start of packets. DOORBELL of eight bytes raises an attached slot's
doorbell; QCTX_ATTACH reads the descriptor and leaves the queue as EN says (in ERROR 2 where LOG2SIZE or a reserved
bit is wrong), QCTX_DETACH frees a disabled slot, KICK reads the descriptor again. QUEUE_FETCH and SEQWAIT_REREAD of a
slot whose SEQ differs leave the queue in SEQWAIT, from which a match gives FETCH; a packet fetched that passes its
checks goes to DEPWAIT, a bad TYPE to ERROR 1. WAIT_LIST_READ latches an entry that reads zero and aborts on a
negative one. A latched packet starts: NOP and BARRIER end at once, DISPATCH makes its grid, COPY hands its copy to a
Courier, SIGNAL performs its write; RIDX moves on by one. A hold that has ended is over at the next fetch, and an idle
queue whose doorbell is ahead goes to FETCH. The extension of QDESC (assumption 43), BADTYPE before the other checks
(25) and KICK's re-read of RING (41) are the model's choice. (R373, R376, R379, R381, R383, R388, R391, R392, R483,
notes/assumptions/25.md, notes/assumptions/41.md, notes/assumptions/43.md) -/
def Obligations.QueuesAndPackets : Prop :=
  (∀ (slot : Nat) (val : W64) (s : State) (q : Queue), afterReady s = true → findQueue s slot = some q → q.ctx ≠ none →
    (∃ t, exec (.doorbell slot val 8) s = .next t ∧ t.mem = s.mem ∧
      findQueue t slot = some { q with doorbell := max q.doorbell val.toNat }) ∧
    (∀ n, n < 8 → exec (.doorbell slot val n) s = .next s)) ∧
  (∀ (slot ctx : Nat) (s u v : State) (q : Queue) (b : List Byte), afterReady s = true → slot < 4096 → (findCtx s ctx).isSome = true →
    q = { newQueue slot with qdesc := ((findQueue s slot).map (·.qdesc)).getD 0, ctx := some ctx } →
    u = onQueue slot (fun _ => q) (touchQueue slot s) → engineRead u q.die ctx (extend52 q.qdesc.toNat) 32 rdWant = (v, .ok, b) →
    ∃ t z, exec (.qctxAttach slot ctx) s = .next t ∧ findQueue t slot = some z ∧ z.ctx = some ctx ∧
      z.ring = BitVec.ofNat 64 (bytesAt b 0 8) ∧ z.ctrl = BitVec.ofNat 32 (bytesAt b 8 4) ∧ z.ridx = bytesAt b 16 8 ∧
      (bitAt (bytesAt b 8 4) 6 = false → z.state = .disabled) ∧
      (bitAt (bytesAt b 8 4) 6 = true → 4 ≤ bitsOf (bytesAt b 8 4) 3 0 → bitsOf (bytesAt b 8 4) 31 24 = 0 → z.state = .idle) ∧
      (bitAt (bytesAt b 8 4) 6 = true → bitsOf (bytesAt b 8 4) 3 0 < 4 ∨ bitsOf (bytesAt b 8 4) 31 24 ≠ 0 →
        z.state = .error ∧ z.code = 2)) ∧
  (∀ (slot : Nat) (s : State) (q : Queue), findQueue s slot = some q →
    (∃ t, exec (.qctxDetach slot) s = .next t ∧ t.mem = s.mem ∧
      findQueue t slot = some { q with ctx := if q.state = .disabled then none else q.ctx }) ∧
    (∀ c v b, q.ctx = some c → engineRead s q.die c (extend52 q.qdesc.toNat) 32 rdWant = (v, .ok, b) →
      ∃ t z, exec (.kick slot) s = .next t ∧ findQueue t slot = some z ∧ z.ctrl = BitVec.ofNat 32 (bytesAt b 8 4) ∧
        z.ring = BitVec.ofNat 64 (bytesAt b 0 8) ∧ z.ridx = q.ridx ∧
        (bitAt (bytesAt b 8 4) 6 = false → z.state = .disabled) ∧
        (bitAt (bytesAt b 8 4) 6 = true → 4 ≤ bitsOf (bytesAt b 8 4) 3 0 → bitsOf (bytesAt b 8 4) 31 24 = 0 →
          z.state = (if q.state = .disabled then .idle else q.state)) ∧
        (bitAt (bytesAt b 8 4) 6 = true → q.state ≠ .error → bitsOf (bytesAt b 8 4) 3 0 < 4 ∨ bitsOf (bytesAt b 8 4) 31 24 ≠ 0 →
          z.state = .error ∧ z.code = 2))) ∧
  (∀ (die n c : Nat) (s : State) (x : Queue), runningQueue s die n = some (x, c) → n < 64 →
    (∀ i, (i = .queueFetch die n ∧ wantsFetch x = true ∧
            ∀ y ∈ s.queues, y.die = die → wantsFetch y = true → queuePri y ≤ queuePri x) ∨
          (i = .seqwaitReread die n ∧ x.state = .seqwait) →
      ∀ u b, readSlot x c s = (u, some b, false) → x.state ≠ .aborted →
        (bitsOf (bytesAt b 0 4) 31 16 ≠ x.ridx % 65536 → ∃ t z, exec i s = .next t ∧ findQueue t x.slot = some z ∧
          z.state = .seqwait ∧ z.ridx = x.ridx) ∧
        (bitsOf (bytesAt b 0 4) 31 16 = x.ridx % 65536 → x.state = .seqwait → ∃ t z, exec i s = .next t ∧
          findQueue t x.slot = some z ∧ z.state = .fetch ∧ z.ridx = x.ridx) ∧
        (bitsOf (bytesAt b 0 4) 31 16 = x.ridx % 65536 → x.state = .fetch → 5 ≤ pktType { x with pkt := b } →
          ∃ t z, exec i s = .next t ∧ findQueue t x.slot = some z ∧ z.state = .error ∧ z.code = 1 ∧ z.ridx = x.ridx) ∧
        (∀ y v, y = { x with pkt := b } → x.state = .fetch → bitsOf (bytesAt b 0 4) 31 16 = x.ridx % 65536 → pktType y < 5 → packetClean y = true →
          checkAddrs y.die c (packetAddrs y) u = (v, some true) → (pktType y = 1 → dispatchError v c y = none) →
          assist v c 1 = false →
          ∃ t z, exec i s = .next t ∧ findQueue t x.slot = some z ∧ z.state = .depwait ∧ z.pkt = b ∧ z.latched = [] ∧
            z.ridx = x.ridx)) ∧
    (x.state = .hold → x.holds = none → ∃ t z, exec (.queueFetch die n) s = .next t ∧ findQueue t x.slot = some z ∧
      z.state = (if x.ridx < x.doorbell then .fetch else .idle) ∧ z.ridx = x.ridx) ∧
    (x.state = .idle → x.ridx < x.doorbell → ∃ t z, exec (.queueFetch die n) s = .next t ∧ findQueue t x.slot = some z ∧
      z.state = .fetch ∧ z.ridx = x.ridx) ∧
    (∀ i a b u, x.state = .depwait → waitList x = [(i, a)] → x.latched = [] → engineRead s x.die c a 8 rdWant = (u, .ok, b) →
      ∃ t z, exec (.waitListRead die n) s = .next t ∧ findQueue t x.slot = some z ∧
        (natOfBytes b = 0 → z.latched = [i] ∧ z.state = .depwait) ∧
        (2 ^ 63 ≤ natOfBytes b → z.abort = 1 ∧ z.ridx = x.ridx + 1) ∧
        (natOfBytes b ≠ 0 → natOfBytes b < 2 ^ 63 → z.latched = [] ∧ z.state = .depwait)) ∧
    (∀ i, (i = .packetStart die n ∧ x.state = .depwait ∧ (∀ w ∈ waitList x, w.1 ∈ x.latched)) ∨
          (x.state = .start ∧ ((i = .nopPacket die n ∧ pktType x = 0) ∨ (i = .barrier die n ∧ pktType x = 2))) →
      pktType x = 0 ∨ pktType x = 2 →
      ∃ t z, exec i s = .next t ∧ findQueue t x.slot = some z ∧ z.ridx = x.ridx + 1 ∧ z.latched = [] ∧
        z.state = (if x.ridx + 1 < x.doorbell then .fetch else .idle)) ∧
    (∀ v k cx, x.state = .start → pktType x = 1 → descOwned s c = false →
      kernelNamed (reloadDesc c s) c (pktN x 8 8) = some (v, k) → findCtx (reloadDesc c s) c = some cx →
      bitAt (pktN x 0x24 4) 0 = false → k.coop = false →
      ∃ t g z, exec (.dispatch die n) s = .next t ∧ t.grids = s.grids ++ [g] ∧ g.gid = freshGid (reloadDesc c s) c ∧ g.teams = pktN x 4 4 ∧
        g.unplaced.length = pktN x 4 4 ∧ g.ver = v.id ∧ g.waves = k.waves ∧ g.depth = 1 ∧ g.parent = none ∧
        (findCtx t c).map (·.nextGid) = some (g.gid + 1) ∧ findQueue t x.slot = some z ∧ z.ridx = x.ridx + 1 ∧
        (pktB x = true → z.state = .hold ∧ z.holds = some g.uid) ∧
        (pktB x = false → z.state = (if x.ridx + 1 < x.doorbell then .fetch else .idle))) ∧
    (∀ core tag ds ks, x.state = .start → pktType x = 3 →
      s.tags.find? (fun y => y.queue == some (64 * die + n) && y.state == .fault) = none →
      (∀ y ∈ s.queues, y.die = x.die → y.state = .start → pktType y = 3 → pktPri s y ≤ pktPri s x) →
      courierRoom s x.die = some (core, tag) → copyAligned (packetCopy x c s.nextId) = true →
      placesOf s x.die c dstWant (destPieces (packetCopy x c s.nextId)) = .ok ds →
      placesOf s x.die c sigWant (if pktN x 0x30 8 == 0 then [] else [(pktN x 0x30 8, 8)]) = .ok ks →
      ∃ t y cp z, exec (.copy die n) s = .next t ∧ t.tags = s.tags ++ [y] ∧ y.die = x.die ∧ y.core = core ∧ y.tag = tag ∧
        y.state = .busy ∧ y.queue = some x.slot ∧ y.copy = some cp ∧ cp.kind = (packetCopy x c s.nextId).kind ∧
        cp.src = BitVec.ofNat 64 (pktN x 8 8) ∧ cp.dst = BitVec.ofNat 64 (pktN x 0x10 8) ∧ cp.owned = joinRuns ds ∧
        findQueue t x.slot = some z ∧ z.ridx = x.ridx + 1) ∧
    (∀ u k, x.state = .start → pktType x = 4 →
      reach s x.die c (pktN x 8 8) 8 (if pktN x 4 4 == 1 then rwWant else { wrWant with refused := noMmio }) = (u, .ok k) →
      ∃ t z, exec (.signal die n) s = .next t ∧ findQueue t x.slot = some z ∧ z.ridx = x.ridx + 1 ∧
        z.state = (if x.ridx + 1 < x.doorbell then .fetch else .idle) ∧
        (Plain u k 8 → NoDirty u → bitAt (pktN x 0x18 4) 31 = false →
          t = packetStarted x c true 0 (memPut u k (bytesOf 8 (if pktN x 4 4 = 1
            then (placeNat u.mem k 8 + pktN x 0x10 8) % 2 ^ 64 else pktN x 0x10 8)))))) ∧
  (∀ (die c va k : Nat) (s u : State), va ≠ 0 → (s.owed.any fun x => x.ctx == c && x.va == va) = false →
    reach s die c va 8 rwWant = (u, .ok k) → Plain u k 8 → NoDirty u →
    (decDone die c va s).mem = u.mem.writeN k (bytesOf 8 ((placeNat u.mem k 8 + (2 ^ 64 - 1)) % 2 ^ 64)))

/-- Teams and bin waves are placed, timers release bins, teams and grids retire. TEAM_PLACEMENT of the item chosen on a
die makes its team, whose waves all stand at the grid's entry with every lane running; BIN_WAVE_PLACEMENT makes one
wave from the oldest records of its bin, payload word j of record r in v-register j of lane r, and takes them from the
bin. BIN_TIMER_EXPIRY marks a bin whose oldest record has waited the timer out. TEAM_RETIRE of a team whose lanes have
all exited and that nothing needs removes it with its tags, once its window's entries can be reached, or for a tag in
FAULT stops the context; GRID_RETIRE removes a finished grid and ends its queue's hold. (R275, R322, R381, R388, R390,
R395, R398, R399) -/
def Obligations.PlacementAndRetirement : Prop :=
  (∀ (die index : Nat) (s u : State) (g : Grid), placeNext s die priorities = some (.team g index, u) → g.coop = false →
    ∃ t team, exec (.teamPlacement die) s = .next t ∧ team ∈ t.teams ∧ team.ctx = g.ctx ∧ team.grid = g.uid ∧
      team.index = index ∧ team.die = die ∧ team.waves = g.waves ∧ team.bars = [] ∧ team.maps = [] ∧
      ∀ k, k < g.waves → ∃ w ∈ t.bg, w.team = team.id ∧ w.waveId = k ∧ w.live = true ∧ w.ctx = g.ctx ∧ w.grid = g.uid ∧
        w.die = die ∧ w.core = team.core ∧ w.width = g.wwidth ∧ w.exited = 0 ∧ w.cur.mask = Mask.low g.wwidth ∧
        w.cur.pc = BitVec.ofNat 49 (if w.isL then g.entryL else g.entryD) ∧ w.cur.state = .ready ∧
        Store.get 0 w.s 4 = BitVec.ofNat 32 g.teams) ∧
  (∀ (die : Nat) (s u : State) (b : Bin) (g : Grid), placeNext s die priorities = some (.bin b, u) → findGrid s b.child = some g →
    g.wwidth ≤ 64 → (∀ x ∈ s.bins, x.die = b.die → x.num = b.num → x = b) →
    ∃ t, exec (.binWavePlacement die) s = .next t ∧
      (∃ w ∈ t.bg, w.grid = g.uid ∧ w.live = true ∧ w.width = binWidth g.wwidth (min b.recs.length g.wwidth) ∧
        Store.get 0 w.s 4 = BitVec.ofNat 32 (min b.recs.length g.wwidth) ∧
        w.cur.mask = Mask.low w.width &&& Mask.low (min b.recs.length g.wwidth) ∧
        ∀ r j x, r < g.wwidth → b.recs[r]? = some x → j < x.words.length → Store.get 0 w.v (64 * j + r) = x.words.getD j 0) ∧
      (if b.recs.length ≤ g.wwidth then findBin t b.die b.num = none
       else ∃ y, findBin t b.die b.num = some y ∧ y.recs = b.recs.drop g.wwidth)) ∧
  (∀ (die n : Nat) (s : State) (b : Bin) (g : Grid), findBin s die n = some b → findGrid s b.child = some g → ctxRuns s g.ctx = true →
    binTimer s g.ctx ≠ 0 → binTimer s g.ctx ≤ b.oldest →
    ∃ t, exec (.binTimerExpiry die n) s = .next t ∧ t.mem = s.mem ∧ findBin t die n = some { b with timed := true }) ∧
  (∀ (team : Nat) (s : State) (x : Team), findTeam s team = some x → ctxRuns s x.ctx = true →
    (∀ w ∈ allWaves s, w.team = x.id → w.liveLanes = 0#64) →
    ((∀ y ∈ teamTags s x, y.state = .set) → teamBusy s x = false →
      (mapWindow false x (x.dirty.foldl (fun s d => writeBackLine x.id d s) s)).2 ≠ .wait → ∃ t, exec (.teamRetire team) s = .next t ∧
      findTeam t team = none ∧ ∀ y ∈ t.tags, y.team ≠ some team) ∧
    (∀ y ∈ teamTags s x, y.state = .fault → ∃ t c, exec (.teamRetire team) s = .next t ∧ findCtx t x.ctx = some c ∧
      c.state = .halting ∧ c.reason = .fatal)) ∧
  (∀ (grid : Nat) (s : State) (g : Grid), findGrid s grid = some g → gridDone s g = true → ctxRuns s g.ctx = true →
    ∃ t, exec (.gridRetire grid) s = .next t ∧ findGrid t grid = none ∧
      ∀ slot q, g.queue = some slot → findQueue s slot = some q → q.holds = some g.uid →
        ∃ z, findQueue t slot = some z ∧ z.holds = none ∧ (z.state = .fetch ∨ z.state = .idle))

/-! ### Traps and the sequencer -/

/-- Delivering a trap enters its handler, goes to the host or halts the context; HRET returns. TRAP_DELIVERY of the wave's
earliest pending trap, while no split runs a handler: one routed to the host is posted; one with a handler, once no
result of the split is outstanding and none is owed to the registers saved, writes the frame (the sixteen v-registers
of the running lanes, the scalars, the cause, the addresses, the words, the masks), sets the trap registers, zeroes
the registers but for the frame's address and the cause, sets H and goes to the handler; any other raises the halt
line, a BKPT's after stopping the wave's splits. HRET, once nothing is owed, restores the frame's registers and goes
on at TRAPPC, or after its instruction with .skip, with H clear; a .skip that the trap forbids raises ILLOP. (R164,
R165, R166, R184, R415, R417, R418, R419, R422, R424) -/
def Obligations.ExceptionEntryAndReturn : Prop :=
  (∀ (uid : Nat) (s u v : State) (x : Split) (tr : Trap), u = { focusWave uid s with acc := false } → u.wave.live = true →
    u.wave.uid = uid → ctxRuns u u.wave.ctx = true → u.wave.parked = none → anyHandler u.wave = false →
    lowestTseq u.wave (trapped u u.wave) = some x → v = { u with wave := u.wave.focus x.idx } → v.wave.cur = x → x.trap = some tr →
    (goesToHost v v.wave x tr = true → ∃ t p, exec (.trapDelivery uid) s = .next t ∧ t = { v with posted := v.posted ++ [p] } ∧
      p.uid = uid ∧ p.entry = x.idx ∧ p.trap = tr ∧ p.idx = none ∧ p.err = false) ∧
    (goesToHost v v.wave x tr = false → goesToHandler v v.wave x tr = true →
      (entryOwed v = true → exec (.trapDelivery uid) s = .next v) ∧
      (entryOwed v = false → (∀ a, a < 4288 → placeHeld (frameKey v v.wave + a) = true) → ∃ t h, exec (.trapDelivery uid) s = .next t ∧ t.bg = v.bg ∧ t.pend = v.pend ∧ SameK v t ∧
        t.wave.cur.h = true ∧ t.wave.cur.state = .ready ∧ t.wave.cur.trap = none ∧ t.wave.cur.mask = x.mask ∧
        t.wave.cur.pc = BitVec.ofNat 49 (handlerPc v v.wave tr.cause) ∧ t.wave.cur.handler = some h ∧ h.mask = x.mask ∧
        h.blk = x.blk ∧ t.wave.tCause = causeWord tr x.idx ∧ t.wave.tPc = 0#15 ++ tr.pc ∧ t.wave.tPc2 = tr.pc2 ∧
        t.wave.tWord0 = tr.word0 ∧ t.wave.tWord1 = tr.word1 ∧ t.wave.tMask = tr.mask ∧ t.wave.tAddr = tr.addr ∧
        (∀ n, n < 16 → rdS t n = if n = 0 then lo32 (BitVec.ofNat 64 (frameVa v v.wave))
          else if n = 1 then hi32 (BitVec.ofNat 64 (frameVa v v.wave)) else if n = 2 then causeWord tr x.idx else 0) ∧
        (∀ n, 16 ≤ n → rdS t n = rdS v n) ∧
        (∀ n l, l < 64 → vAt t n l = if n < 16 ∧ x.mask.has l = true then 0 else vAt v n l) ∧
        (∀ n l, n < 16 → x.mask.has l = true → l < 64 →
          placeNat t.mem (frameKey v v.wave + (0x100 * n + 4 * l)) 4 = (rdV v n l).toNat) ∧
        (∀ n, n < 16 → placeNat t.mem (frameKey v v.wave + (0x1000 + 4 * n)) 4 = (rdS v n).toNat) ∧
        placeNat t.mem (frameKey v v.wave + 0x1040) 4 = (causeWord tr x.idx).toNat ∧
        placeNat t.mem (frameKey v v.wave + 0x1048) 8 = tr.pc.toNat ∧ placeNat t.mem (frameKey v v.wave + 0x1050) 8 = tr.pc2.toNat ∧
        placeNat t.mem (frameKey v v.wave + 0x1058) 8 = tr.word0.toNat ∧
        placeNat t.mem (frameKey v v.wave + 0x1060) 8 = tr.word1.toNat ∧ placeNat t.mem (frameKey v v.wave + 0x1068) 8 = tr.mask.toNat ∧
        placeNat t.mem (frameKey v v.wave + 0x1070) 8 = tr.addr.toNat ∧ placeNat t.mem (frameKey v v.wave + 0x1078) 8 = x.mask.toNat ∧
        (∀ n, 1 ≤ n → n ≤ 3 → placeNat t.mem (frameKey v v.wave + (0x1078 + 8 * n)) 8 = (rdK v n).toNat) ∧
        ∀ a, a < frameKey v v.wave ∨ frameKey v v.wave + 4288 ≤ a → byteAt t a = byteAt s a)) ∧
    (goesToHost v v.wave x tr = false → goesToHandler v v.wave x tr = false →
      ∃ t c, exec (.trapDelivery uid) s = .next t ∧ SameMem s t ∧ t.wave.cur = { x with stop := x.stop || tr.cause == 5 } ∧ findCtx t v.wave.ctx = some c ∧
        c.state = .halting ∧ c.reason = .fatal ∧ c.fatal = some (uid, x.idx, tr))) ∧
  (∀ (f : RF) (s : State) (h : Handler), Ready (.hret f) s → s.acc = false → s.wave.cur.handler = some h → handlerOwes s = false →
    let pc : PC := s.wave.tPc.extractLsb' 0 49
    let b := frameKey s s.wave
    (f.md = 1#2 → h.hdr = true ∨ skipAllowed h.work s.wave = false →
      ∃ t, exec (.hret f) s = .next t ∧ Trapped s t 1 2 s.wave.cur.mask 0 (.hret f)) ∧
    (f.md ≠ 1#2 ∨ (h.hdr = false ∧ skipAllowed h.work s.wave = true ∧ (lengthAt s s.wave h.blk pc).isSome = true) → NoDirty s →
      b + 4288 ≤ 2 ^ 80 → (∀ a, a < 4288 → placeHeld (b + a) = true) → (∀ r ∈ s.raw, b + 4288 ≤ r.lo ∨ r.lo + r.len ≤ b) →
      ∃ t, exec (.hret f) s = .next t ∧ t.wave.cur.h = false ∧ t.wave.cur.state = .ready ∧ t.wave.cur.handler = none ∧
        t.wave.cur.mask = s.wave.cur.mask ∧ t.wave.seq = s.wave.seq + 1 ∧
        (f.md ≠ 1#2 → t.wave.cur.pc = pc) ∧
        (∀ k, f.md = 1#2 → h.blk = some k → k.has s.wave.isL pc = true →
          t.wave.cur.pc = pc + BitVec.ofNat 49 (max 1 (k.at s.wave.isL pc).2.2.2)) ∧
        (∀ n, rdS t n = if n < 16 then BitVec.ofNat 32 (placeNat s.mem (b + (0x1000 + 4 * n)) 4) else rdS s n) ∧
        (∀ n l, l < 64 → vAt t n l = if n < 16 ∧ (BitVec.ofNat 64 (placeNat s.mem (b + 0x1078) 8)).getLsbD l = true
          then BitVec.ofNat 32 (placeNat s.mem (b + (0x100 * n + 4 * l)) 4) else vAt s n l) ∧
        (∀ n l, l < 64 → kAt t n l = if 1 ≤ n ∧ n ≤ 3
          then (BitVec.ofNat 64 (placeNat s.mem (b + (0x1078 + 8 * n)) 8)).getLsbD l else kAt s n l) ∧
        ((∀ tag, h.work ≠ .copy tag) → SameMem s t ∧ t.bg = s.bg)))

/-- What the sequencer does by itself to a wave's splits. REJOIN_TIMEOUT of a member whose deadline has run out lets the
members present go on past their RJOIN as one split and marks the others' records LATE. FORCED_FUSE of a split at a
whole-wave instruction stops its path for a pending one, or lets it wait for the wave's lanes. STUCK_WAVE raises
REJOINDEAD or CONVERGE, SCATTER. MISS_SPLIT moves the lanes whose sources are full to a new entry. HARDWARE_BREAKPOINT
traps at a listed address. SLEEP_EXPIRY wakes a split whose count is over, WAITMEM_LATCH latches a lane whose value
differs, and the last one lets the split go on. WAVE_RELEASE removes an exited wave. (`u` is the state with the wave
and entry in focus.) (R149, R154, R155, R156, R159, R160, R164, R167, R178, R182, R186, R187) -/
def Obligations.SequencerEvents : Prop :=
  (∀ (uid e : Nat) (s u : State) (r : RjRec) (rest : List RjRec) (v : Split), u = focusSplit uid e s → u.wave.cur.idx = e →
    u.wave.cur.mask ≠ 0#64 → u.wave.cur.state = .rjwait → u.wave.cur.deadline = 0#32 → ctxRuns u u.wave.ctx = true →
    u.wave.cur.rj = r :: rest → (u.wave.splits.map (·.idx)).Nodup →
    (∀ y ∈ rjMembers u.wave r.addr u.wave.cur.h, y.stop = false) → oldest (rjMembers u.wave r.addr u.wave.cur.h) = some v →
    ∃ t, exec (.rejoinTimeout uid e) s = .next t ∧ t.mem = s.mem ∧
      (∃ y ∈ t.wave.splits, y.idx = v.idx ∧ y.state = .ready ∧ y.rj = v.rj.drop 1 ∧ y.pc = v.pc + BitVec.ofNat 49 (longLen u.wave.isL) ∧
        y.mask = (rjMembers u.wave r.addr u.wave.cur.h).foldl (fun m z => m ||| z.mask) 0) ∧
      ∀ z ∈ u.wave.splits, z ∉ rjMembers u.wave r.addr u.wave.cur.h →
        { z with rj := z.rj.map fun q => if q.addr = r.addr then { q with late := true } else q } ∈ t.wave.splits) ∧
  (∀ (uid e : Nat) (s u : State) (i : Instr), u = { focusSplit uid e s with acc := false } → u.wave.cur.idx = e →
    u.wave.cur.instr u.wave.isL = some i → splitRuns u = true → u.wave.cur.fused = false → needsFuse (expand i) = true →
    fateOf u i = none →
    (pendingOf u.wave e = none → ∃ t, exec (.forcedFuse uid e) s = .next t ∧ t.wave.cur.state = .ffwait ∧
      t.wave.cur.mask = (takeHeld u.wave).cur.mask ∧ t.wave.cur.pc = u.wave.cur.pc ∧ t.wave.others = u.wave.others ∧ t.mem = s.mem) ∧
    (∀ d, pendingOf u.wave e = some d → ∃ t, exec (.forcedFuse uid e) s = .next t ∧ t.wave.cur.mask = d.mask ∧
      t.wave.cur.pc = d.pc ∧ t.mem = s.mem ∧ (∃ x ∈ t.wave.defs, x.mask = u.wave.cur.mask ∧ x.pc = u.wave.cur.pc ∧
        x.held = true ∧ x.owner = e))) ∧
  (∀ (uid : Nat) (s u : State) (x : Split), u = { focusWave uid s with acc := false } → u.wave.uid = uid → isStuck u = true →
    stuckSplit u.wave = some x → (u.wave.splits.map (·.idx)).Nodup → (∀ y ∈ u.wave.others, y.mask ≠ 0#64) →
    ∃ t tr, exec (.stuckWave uid) s = .next t ∧ t.wave.cur.idx = x.idx ∧ t.wave.cur.state = .trapq ∧ t.wave.cur.trap = some tr ∧
      (tr.cause, tr.sub) = (if x.state = .rjwait then (4, 0) else (3, 2)) ∧ tr.mask = x.mask ∧ tr.addr = 0 ∧ tr.pc = x.pc ∧
      t.mem = s.mem) ∧
  (∀ (uid e : Nat) (s u : State) (m : Mask) (n : Nat), u = { focusSplit uid e s with acc := false } → u.wave.uid = uid →
    u.wave.cur.idx = e → 64 ≤ u.wave.cur.missCount → missLanes u = some m → freeEntry u = some n →
    ∃ t y, exec (.missSplit uid e) s = .next t ∧ t.wave.cur.mask = u.wave.cur.mask &&& ~~~m ∧ t.wave.cur.pc = u.wave.cur.pc ∧
      y ∈ t.wave.others ∧ y.idx = n ∧ y.mask = m ∧ y.pc = u.wave.cur.pc ∧ y.rj = u.wave.cur.rj ∧ y.state = u.wave.cur.state ∧
      t.mem = s.mem ∧ SameV u t ∧ SameS u t ∧ SameK u t) ∧
  (∀ (uid e : Nat) (s u : State) (i : Instr), u = { focusSplit uid e s with acc := false } → u.wave.uid = uid →
    u.wave.cur.idx = e → bpHit u = true → u.wave.cur.instr u.wave.isL = some i →
    ∃ t, exec (.hardwareBreakpoint uid e) s = .next t ∧ Trapped u t 5 2 u.wave.cur.mask 0 i) ∧
  (∀ (uid e : Nat) (s u : State), u = focusSplit uid e s → u.wave.uid = uid → u.wave.cur.idx = e → u.wave.cur.mask ≠ 0#64 →
    u.wave.cur.state = .sleep → u.wave.cur.waitmem = none → u.wave.cur.sleep = 0 → u.wave.cur.stop = false →
    ∃ t n, exec (.sleepExpiry uid e) s = .next t ∧
      t = { u with wave := { u.wave with cur := { u.wave.cur with state := .ready, nextIssue := n } } } ∧ u.cycle < n) ∧
  (∀ (uid e lane key : Nat) (s u : State) (m : WaitMem) (a : LaneAcc), u = { focusSplit uid e s with acc := false } → u.wave.uid = uid →
    u.wave.cur.idx = e → u.wave.cur.state = .sleep → u.wave.cur.stop = false → ctxRuns u u.wave.ctx = true →
    u.wave.cur.waitmem = some m → m.lanes.find? (fun y => y.lane == lane) = some a →
    xlate 4 u u.wave.die u.wave.ctx a.va (wantOf u true false []) = .ok key → readWaits u m.scalar lane key m.size = false →
    AtHome u u.wave.team a.va key m.size →
    (placeNat s.mem key m.size = a.val → exec (.waitmemLatch uid e lane) s = .next u) ∧
    (placeNat s.mem key m.size ≠ a.val → ∃ t, exec (.waitmemLatch uid e lane) s = .next t ∧ t.mem = s.mem ∧
      ((m.lanes.filter fun y => y.lane != lane) ≠ [] → t.wave.cur =
        { u.wave.cur with waitmem := some { m with lanes := m.lanes.filter fun y => y.lane != lane } }) ∧
      ((m.lanes.filter fun y => y.lane != lane) = [] → t.wave.cur.state = .ready ∧ t.wave.cur.waitmem = none ∧
        t.wave.cur.pc = u.wave.cur.pc + BitVec.ofNat 49 (longLen u.wave.isL)))) ∧
  (∀ (uid : Nat) (s u : State), u = focusWave uid s → u.wave.uid = uid → releasable u = true → (∀ w ∈ u.bg, w.uid ≠ uid) →
    ∃ t, exec (.waveRelease uid) s = .next t ∧ hasWave uid t = false ∧ t.mem = s.mem ∧ (∀ w ∈ allWaves t, w ∈ u.bg) ∧
      ∀ w ∈ u.bg, w.live = true → w ∈ allWaves t)

/-! ### System instructions -/

/-- What MIGRATE, SPAWN, PUBLISH, TLBINV, CWB and CINV do. MIGRATE to the class it runs on writes 0 to D and goes on; to
the other class, with a valid next header that has an EQUIV entry, it parks its wave at that header with D, the
direction and the limit kept; where a condition fails it raises MIGREFUSE. SPAWN appends one record per active lane,
in lane order, to the bin of its key; a grid at depth 10 or an entry that names no kernel makes it trap. PUBLISH marks
D's pair and STAT empty and queues its request, or raises ALIGN. TLBINV drops the TLB entries its TYPE names, and its
split waits for the accesses they translated; CWB writes the range's dirty lines home, CINV, once the lanes' writes
are performed, drops the context's fetch copies of the range's lines, under whatever mapping. TLBINV's drops at its
issue and the blocks under execution, which CINV leaves, are the model's choice (assumption 27). (`v` is the state
after the fetch of the next block.) (R395, R397, R434, R435, R436, R448, R449, R450, R454,
14_translation_and_trap_unit.md Table 14.16, notes/assumptions/27.md) -/
def Obligations.SystemInstructions : Prop :=
  ∀ (s : State), s.acc = false →
    (∀ (f : RF), Ready (.migrate f) s → s.wave.cur.h = false →
      ((f.md == 0#2) = s.wave.isL → ∃ t, exec (.migrate f) s = .next t ∧ RegFrame s t ∧ Advances (.migrate f) s t ∧ SameV s t ∧
        SameK s t ∧ WritesS s t f.d.toNat [0]) ∧
      (∀ k b v next, (f.md == 0#2) ≠ s.wave.isL → s.wave.cur.blk = some k → next = k.endPc s.wave.isL →
        fetchBlock (issued (.migrate f) s) s.wave.isL false next = (v, .ok b) →
        (∀ sub, (sub = 1 ∧ (∀ e, equivAt v s.wave next = some e → b.eqv = false ∨ bitAt e.flags (if f.md = 0#2 then 0 else 1) = false)) ∨
            (∃ e, equivAt v s.wave next = some e ∧ b.eqv = true ∧ bitAt e.flags (if f.md = 0#2 then 0 else 1) = true ∧
              ((sub = 3 ∧ f.md = 0#2 ∧ 16 < s.wave.width) ∨
               ((f.md = 0#2 → s.wave.width ≤ 16) ∧ sub = 2 ∧ holdsEngine s.wave = true) ∨
               ((f.md = 0#2 → s.wave.width ≤ 16) ∧ sub = 4 ∧ holdsEngine s.wave = false ∧
                 ∃ r ∈ s.wave.cur.rj, equivAt v s.wave r.addr = none))) →
          ∃ t, exec (.migrate f) s = .next t ∧ Trapped s t 0x0C sub s.wave.cur.mask 0 (.migrate f)) ∧
        (∀ e, equivAt v s.wave next = some e → b.eqv = true → bitAt e.flags (if f.md = 0#2 then 0 else 1) = true →
          (f.md = 0#2 → s.wave.width ≤ 16) → holdsEngine s.wave = false →
          (∀ r ∈ s.wave.cur.rj, (equivAt v s.wave r.addr).isSome = true) →
          s.wave.team ∈ parkedTeams v s.wave.die ∨ (parkedTeams v s.wave.die).length < 16 →
          ∃ t p, exec (.migrate f) s = .next t ∧ t.wave.parked = some p ∧ p.d = f.d.toNat ∧ p.toL = (f.md == 0#2) ∧ p.next = next ∧
            p.limit = limitCycles (src32 s f.a 0) ∧ p.since = s.cycle ∧ t.wave.cur.state = .migq ∧ t.wave.cur.pc = next ∧
            t.wave.cur.mask = s.wave.cur.mask ∧ t.wave.seq = s.wave.seq + 1 ∧ SameV s t ∧ SameS s t ∧ SameK s t ∧ SameMem v t ∧
            t.bg = s.bg))) ∧
    (∀ (f : RF) (x : SpawnX) (g : Grid), Ready (.spawn f x) s → findGrid s s.wave.grid = some g →
      (actOf s f = 0#64 → ∃ t, exec (.spawn f x) s = .next t ∧ RegFrame s t ∧ Advances (.spawn f x) s t ∧ SameV s t ∧ SameS s t ∧
        SameK s t) ∧
      (10 ≤ g.depth → actOf s f ≠ 0#64 → ∃ t, exec (.spawn f x) s = .next t ∧ Trapped s t 0x0B 6 (actOf s f) 0 (.spawn f x)) ∧
      (g.depth < 10 → ∀ l, (Mask.lanes (actOf s f)).find? (fun j => (entryKern s s.wave (spawnEntry f s j % 2 ^ 52)).isNone) = some l →
        ∃ t, exec (.spawn f x) s = .next t ∧ Trapped s t 0x0B 7
          (Mask.ofLanes ((Mask.lanes (actOf s f)).filter fun j => (entryKern s s.wave (spawnEntry f s j % 2 ^ 52)).isNone))
          (addrW (spawnEntry f s l)) (.spawn f x)) ∧
      (g.depth < 10 → (∀ l ∈ Mask.lanes (actOf s f), (entryKern s s.wave (spawnEntry f s l % 2 ^ 52)).isSome = true) →
        binRoom s s.wave.die g.uid (Mask.lanes (actOf s f)).length
          ((Mask.lanes (actOf s f)).map fun l => spawnEntry f s l % 2 ^ 52) = true →
        ∃ t, exec (.spawn f x) s = .next t ∧ Advances (.spawn f x) s t ∧ SameV s t ∧ SameS s t ∧ SameK s t ∧ SameMem s t ∧
          t.bg = s.bg ∧ t.wave.seq = s.wave.seq + 1 ∧
          ∀ e, actOf s f ≠ 0#64 → (∀ l ∈ Mask.lanes (actOf s f), spawnEntry f s l % 2 ^ 52 = e) →
            ((keyBin t s.wave.die g.uid e).map fun b => b.recs.map (·.words)) =
              some ((((keyBin s s.wave.die g.uid e).map fun b => b.recs.map (·.words)).getD []) ++
                (Mask.lanes (actOf s f)).map (payload f x s)) ∧
            ((s.bins.map fun b => (b.die, b.num)).Nodup → ∀ b ∈ s.bins, ¬ (b.die = s.wave.die ∧ b.parent = g.uid ∧ b.entry = e) →
              b ∈ t.bins))) ∧
    (∀ (f : RF) (x : PublishX) (a b : BitVec 7), Ready (.publish f x) s → f.a = .s a → f.b = .s b →
      ((rdS64 s a.toNat).toNat % 64 ≠ 0 ∨ (rdS s b.toNat).toNat % 64 ≠ 0 ∨ 2 ^ 24 < (rdS s b.toNat).toNat →
        ∃ t, exec (.publish f x) s = .next t ∧ Trapped s t 7 0 s.wave.cur.mask (addrW (rdS64 s a.toNat).toNat) (.publish f x)) ∧
      (∀ ks, (rdS64 s a.toNat).toNat % 64 = 0 → (rdS s b.toNat).toNat % 64 = 0 → (rdS s b.toNat).toNat ≤ 2 ^ 24 →
        placesOf s s.wave.die s.wave.ctx (wantOf s true false []) (pagePieces (rdS64 s a.toNat).toNat (rdS s b.toNat).toNat) = .ok ks →
        ∃ t p, exec (.publish f x) s = .next t ∧ Advances (.publish f x) s t ∧ SameV s t ∧ SameS s t ∧ SameK s t ∧ SameMem s t ∧
          t.bg = s.bg ∧ t.pend = s.pend ++ [p] ∧ p.kind = .publish (rdS64 s a.toNat).toNat (rdS s b.toNat).toNat ∧
          p.uid = s.wave.uid ∧ p.ctx = s.wave.ctx ∧ p.dst = f.d.toNat ∧ p.ndst = 2 ∧ p.args = [x.stat.toNat] ∧
          ∀ n, (n ∈ t.wave.sEmpty ↔ n = f.d.toNat ∨ n = f.d.toNat + 1 ∨ n = x.stat.toNat ∨ n ∈ s.wave.sEmpty))) ∧
    (∀ (f : RF) (base len : Nat), Ready (.tlbinv f) s → base = sPairOf s f.a → len = sWordOf s f.b →
      ∃ t, exec (.tlbinv f) s = .next t ∧ Advances (.tlbinv f) s t ∧ SameV s t ∧ SameS s t ∧ SameK s t ∧
        (f.ty ≠ 3#4 ∨ NoDirty s → SameMem s t) ∧
        t.bg = s.bg.map (Wave.mapSplits fun x => { x with held := x.held.filter fun e => !invalidates f.ty.toNat s.wave.ctx base len e }) ∧
        t.dies = s.dies.map (fun d => { d with
          tlb := d.tlb.filter fun e => !invalidates f.ty.toNat s.wave.ctx base len e }) ∧
        t.wave.cur.inval = oldAccesses s f.ty.toNat s.wave.ctx base len ∧
        ((∃ p ∈ t.pend, p.id ∈ t.wave.cur.inval) → splitRuns t = false) ∧
        (f.ty ≠ 3#4 → t.ctxs = s.ctxs) ∧
        (f.ty = 3#4 → NoDirty s → ∀ c, findCtx s s.wave.ctx = some c → findCtx t s.wave.ctx = some { c with
          desc := c.desc.take 0x10 ++ cohRead s (c.descKey + 0x10) 0x88 ++ c.desc.drop 0x98 })) ∧
    (∀ (f : MF) (i : Instr) (a len : Nat), i = .cwb f ∨ i = .cinv f → Ready i s → (a, len) = rangeOf f s →
      (a % 64 ≠ 0 ∨ len % 64 ≠ 0 → ∃ t, exec i s = .next t ∧ Trapped s t 7 0 s.wave.cur.mask (addrW a) i) ∧
      (a % 64 = 0 → len % 64 = 0 → i = .cwb f → busyPage s s.wave.die s.wave.ctx a len = none →
        ∃ t, exec i s = .next t ∧ Advances i s t ∧ SameV s t ∧ SameS s t ∧ SameK s t ∧ t.bg = s.bg ∧
          t.teams = s.teams.map (fun y => { y with
            dirty := y.dirty.filter fun d => !(linePlaces s s.wave.die s.wave.ctx a len).any fun p => rangesMeet p.1 p.2 d.key 64 }) ∧
          ((∀ y ∈ s.teams, ∀ z ∈ s.teams, ∀ d ∈ y.dirty, ∀ e ∈ z.dirty,
              d.key % 64 = 0 ∧ d.bytes.length = 64 ∧ placeHeld d.key = true ∧ (d.key = e.key → d.bytes = e.bytes)) →
            (∀ y ∈ s.teams, ∀ d ∈ y.dirty, (∃ p ∈ linePlaces s s.wave.die s.wave.ctx a len, rangesMeet p.1 p.2 d.key 64 = true) →
              t.mem.readN d.key 64 = d.bytes) ∧
            ∀ n, (∀ y ∈ s.teams, ∀ d ∈ y.dirty, (∃ p ∈ linePlaces s s.wave.die s.wave.ctx a len, rangesMeet p.1 p.2 d.key 64 = true) →
                n < d.key ∨ d.key + 64 ≤ n) → byteAt t n = byteAt s n)) ∧
      (a % 64 = 0 → len % 64 = 0 → i = .cinv f → ownWrites true s = false →
        busyPage s s.wave.die s.wave.ctx a len = none → ∃ t u, exec i s = .next t ∧ RegFrame s u ∧ Advances i s u ∧ SameV s u ∧ SameS s u ∧ SameK s u ∧
          t = { u with
            copies := s.copies.filter fun x => !(x.ctx == s.wave.ctx &&
              copyMeets s s.wave.die (linePages s s.wave.die s.wave.ctx a len) x) }))

/-! ### Translation, code versions, memory errors, moves -/

/-- Walks, PUBLISH's end, version events, memory errors and the migration queue's events. PAGE_WALK and PTE_BUSY_RETRY set
A, and D for a write, in the entry and fill the TLB; a fault leaves all as it is, BUSY queues a retry.
PUBLISH_COMPLETE writes D's pair and STAT: zero and the code, or the sealed copy's address and a new version; under
PUBV it posts the bytes. VERSION_LOAD appends a version of an acceptable object; FORCED_UNLOAD frees one, halting the
context if a wave is bound to it. UNCORRECTABLE_ERROR zeroes the line and counts; CORRECTED_ERROR counts.
MIGRATE_LIMIT_EXPIRY lets a parked wave go on with D 0 unless its team's move commits; MIGRATION_MOVE puts a team's
waves on cores of the other class with D 1. (`r`, `u`: states after the units' own reads.) The model's choice: a BUSY
walk's retry queued at once (assumptions 9, 27), the lowest multiple of 64 for the sealed copy (28), the checks of
loader-registered objects (28, 40), the move in one event (31). (R67, R262, R405, R436, R438, R451, R453,
notes/assumptions/9.md, notes/assumptions/27.md, notes/assumptions/28.md, notes/assumptions/31.md,
notes/assumptions/40.md) -/
def Obligations.TranslationAndVersionEvents : Prop :=
  (∀ (die c : Nat) (va : W64) (want : Want) (s : State) (desc : List Byte), ctxRuns s c = true →
    desc = ((findCtx s c).map (·.desc)).getD [] → inWindow desc va.toNat = false → canonical va.toNat = true → NoDirty s →
    (probeTables s desc va.toNat = .busy →
      exec (.pageWalk die c va want) s = .next { s with agenda := s.agenda ++ [.event (.pteBusyRetry die c va want)] }) ∧
    (∀ i, i = .pageWalk die c va want ∨ i = .pteBusyRetry die c va want →
      (probeTables s desc va.toNat = .missing → exec i s = .next s) ∧
      (∀ w0 w1 sz k w, probeTables s desc va.toNat = .pte w0 w1 sz k → pteBad w0 w1 sz = false → pteFt w0 = false →
        pteTgt w0 ≠ 1 → w = w0 ||| 0x80#64 ||| (if want.wr then 0x40#64 else 0#64) →
        let check := checkPte s desc (fun x => xlate 3 s die c x walkRd) die c va.toNat want w0 w1 sz true
        (∀ y, check = .ok y → Plain s k 8 → (∃ d ∈ s.dies, d.id = die) → ∃ t e, exec i s = .next t ∧
          tlbFind t die c va.toNat want = some e ∧ e.ctx = c ∧ e.vpn = bitsOf va.toNat 51 12 / 2 ^ sz * 2 ^ sz ∧ e.sz = sz ∧
          e.w0 = w ∧ e.w1 = w1 ∧ t.mem = (if w = w0 then s.mem else s.mem.writeN k (bytesOf 8 w.toNat)) ∧
          (want.holder = none → t.wave = s.wave ∧ t.bg = s.bg)) ∧
        (∀ k b a, check = .fault k b a → exec i s = .next s)))) ∧
  (∀ (id base len : Nat) (s : State) (p : Pending) (r : State) (b : List Byte) (d stat : Nat), findPending s id = some p →
    p.kind = .publish base len → p.scalar = true → p.thread = false → d = p.dst → stat = p.args.headD 0 → p.ndst = 2 →
    stat ≠ d → stat ≠ d + 1 → ctxRuns s p.ctx = true → (∀ q ∈ s.pend, q.uid = p.uid → q.thread = false → q.id < p.id → isAccess q.kind = false) →
    inTurn s p (fun k => match k with | .publish _ _ => true | _ => false) = true →
    (∀ y ∈ s.plat.posts, y.1 ≠ id) → readRange s p.die p.ctx base len p.uid (p.mode.getLsbD 7) = (r, .ok, b) →
    (assist r p.ctx 4 = true →
      exec (.publishComplete id) s = .next (onPlat (fun x => { x with posts := x.posts ++ [(id, b)] }) r)) ∧
    (∀ w code index, assist r p.ctx 4 = false → findWave p.uid r = some w → w.live = true → publishError b = some (code, index) →
      ∃ t v, exec (.publishComplete id) s = .next t ∧ t.mem = r.mem ∧ findPending t id = none ∧ findWave p.uid t = some v ∧
        (∀ n, Store.get 0 v.s n = if n = stat then BitVec.ofNat 32 (code + 256 * index) else if n = d ∨ n = d + 1 then 0
          else Store.get 0 w.s n) ∧
        (∀ n, n ∈ v.sEmpty ↔ n ∈ w.sEmpty ∧ n ≠ d ∧ n ≠ d + 1 ∧ n ≠ stat) ∧ v.v = w.v ∧ v.k = w.k ∧ v.cur = w.cur) ∧
    (∀ w va u c, assist r p.ctx 4 = false → publishError b = none → findCtx r p.ctx = some c →
      lowestFree (c.vers.filterMap fun x => if x.freed then none else some (x.va.toNat, x.size)) (descN r p.ctx 0x0B0 8)
        (descN r p.ctx 0x0B0 8 + descN r p.ctx 0x0B8 8) (max 1 (bytesAt b 0x30 8)) 64 = some va →
      writeRange r p.die p.ctx va (b.take (bytesAt b 0x30 8)) p.uid (p.mode.getLsbD 7) = (u, .ok) → findWave p.uid u = some w → w.live = true →
      ∃ t v x c', exec (.publishComplete id) s = .next t ∧ t.mem = u.mem ∧ findPending t id = none ∧ findWave p.uid t = some v ∧
        (∀ n, Store.get 0 v.s n = if n = stat then 0 else if n = d then BitVec.ofNat 32 va
          else if n = d + 1 then BitVec.ofNat 32 (va / 2 ^ 32) else Store.get 0 w.s n) ∧
        findCtx t p.ctx = some c' ∧ c'.vers = c.vers ++ [x] ∧ c'.nextVer = c.nextVer + 1 ∧ x.id = c.nextVer ∧
        x.va = BitVec.ofNat 64 va ∧ x.size = bytesAt b 0x30 8 ∧ x.obj = b.take (bytesAt b 0x30 8) ∧ x.retired = false ∧ x.freed = false)) ∧
  (∀ (c : Nat) (va : W64) (patches : Option Nat) (s r u : State) (x : Ctx) (h b : List Byte), findCtx u c = some x →
    readRange s 0 c va.toNat 64 = (r, .ok, h) → readRange r 0 c va.toNat (max 64 (bytesAt h 0x30 8)) = (u, .ok, b) →
    (objectOk b = false → exec (.versionLoad c va patches) s = .next u) ∧
    (patches = none → compatOf b = none → exec (.versionLoad c va patches) s = .next u) ∧
    (∀ n, objectOk b = true → (match patches.bind (findVer u c) with | some y => some y.compat | none => compatOf b) = some n →
      ∃ t v, exec (.versionLoad c va patches) s = .next t ∧ t.mem = u.mem ∧ t.wave = u.wave ∧ t.bg = u.bg ∧
        findCtx t c = some { x with
          vers := (x.vers.map fun y => if some y.id = patches then { y with next := some x.nextVer } else y) ++ [v],
          nextVer := x.nextVer + 1 } ∧
        v.id = x.nextVer ∧ v.va = BitVec.ofNat 64 va.toNat ∧ v.size = bytesAt b 0x30 8 ∧
        v.obj = b.take (bytesAt b 0x30 8) ∧ v.compat = n ∧ v.retired = false ∧ v.freed = false)) ∧
  (∀ (c ver : Nat) (s : State) (x : Ctx), findCtx s c = some x →
    ∃ t y, exec (.forcedUnload c ver) s = .next t ∧ t.mem = s.mem ∧ t.wave = s.wave ∧ t.bg = s.bg ∧ findCtx t c = some y ∧
      y.vers = (x.vers.map fun v => if v.id = ver then { v with retired := true, freed := true } else v) ∧
      (x.state = .running → (∃ w ∈ allWaves s, w.ctx = c ∧ w.ver = ver) → y.state = .halting ∧ y.reason = .unload) ∧
      ((∀ w ∈ allWaves s, w.ctx = c → w.ver ≠ ver) → y.state = x.state)) ∧
  (∀ (line id base : Nat) (s : State), base = 64 * (line / 64) →
    (∀ die, tgtOfKey base = 0 ∨ tgtOfKey base = 2 ∨ tgtOfKey base = 4 →
      die = (match victimOf s base id with
        | some v => if tgtOfKey base == 4 then v.die else dieOfKey base
        | none => errorDie s base) →
      ∃ t, exec (.uncorrectableError line id) s = .next t ∧ (∀ n, base ≤ n → n < base + 64 → byteAt t n = 0) ∧
        (s.mem.wf = true → ∀ n, n < base ∨ base + 64 ≤ n → byteAt t n = byteAt s n) ∧ (∀ y ∈ t.teams, ∀ d ∈ y.dirty, d.key ≠ base) ∧
        (findDie t die).ue = satInc (findDie s die).ue ∧ t.plat.logNext = s.plat.logNext + 1 ∧
        ∀ p w x, findPending s id = some p → isAccess p.kind = true → findWave p.uid s = some w → findCtx s p.ctx = some x →
          x.state = .running → (∃ a ∈ p.lanes, rangesMeet a.key (accSize p.kind) base 64 = true) → p.mode.getLsbD 7 = true →
          ∃ y, findCtx t p.ctx = some y ∧ y.state = .halting ∧ y.reason = .fatal) ∧
    ∃ t, exec (.correctedError line) s = .next t ∧ t.mem = s.mem ∧ t.wave = s.wave ∧ t.bg = s.bg ∧
      (findDie t (errorDie s base)).ce = satInc (findDie s (errorDie s base)).ce) ∧
  (∀ (uid : Nat) (s : State) (w : Wave) (p : Parked), findWave uid s = some w → w.live = true → w.parked = some p → p.limit = some 0 →
    ctxRuns s w.ctx = true → (∀ y, findTeam s w.team = some y → commitMove y s = none) →
    ∃ t v, exec (.migrateLimitExpiry uid) s = .next t ∧ t.mem = s.mem ∧ t.teams = s.teams ∧ findWave uid t = some v ∧ v.parked = none ∧
      v.cur.state = .ready ∧ v.cur.pc = p.next ∧ v.cur.mask = w.cur.mask ∧ v.core = w.core ∧ v.v = w.v ∧ v.k = w.k ∧
      ∀ n, Store.get 0 v.s n = if n = p.d then 0 else Store.get 0 w.s n) ∧
  (∀ (team : Nat) (s : State) (x : Team), findTeam s team = some x → movesOf s x ≠ [] → ((allWaves s).map (·.uid)).Nodup →
    (∀ y ∈ s.teams, y.die = x.die → moveBefore s y x = true → fitsOf s y = []) →
    placeNext s x.die (priorities.filter fun p => teamPri s x < p) = none →
    ∃ t, t ∈ movesOf s x ∧ exec (.migrationMove team) s = .next t ∧
      ∀ w ∈ allWaves s, w.live = true → w.liveLanes ≠ 0#64 → w.team = x.id → ∀ p, w.parked = some p →
        ∃ v ∈ allWaves t, v.uid = w.uid ∧ v.parked = none ∧ v.isL = p.toL ∧ v.cur.state = .ready ∧ v.cur.mask = w.cur.mask ∧
          Store.get 0 v.s p.d = 1)

/-! ### Halts, images and the host fault queue -/

/-- Halts, pre-emption, RESUME, STOPWAVE, RESTORE, the host fault queue and context registration. HALT and PREEMPT of a
running context raise its halt line, PREEMPT after reading its descriptor again; a stopped engine acknowledges, the
last one makes the context HALTED or swaps it out: its waves leave the cores for an image. RESUME of a HALTED context
makes it run, its waves behind their earlier accesses. STOPWAVE and RESUMEWAVE set and clear STOP in a wave's splits.
OWED_REPLY_WRITE writes a load's value into a wave's image. RESTORE refuses an image that does not fit, waits for
replies owed, and runs the context once all is placed. HFQ_POST takes an index while the ring has room and writes the
entry; HFQ_COMPLETION_POLL lets the split replay, halts, or ends an error event's pause. CDESC_WRITE registers a
context, or removes it. The model's choice: deregistration removes waves at once (assumption 29), completions above 1
are unresolvable and HFQ events are separate steps (30), PREEMPT re-reads the whole descriptor (41). (R179, R422,
R423, R424, R428, R429, R431, R432, R482, notes/assumptions/29.md, notes/assumptions/30.md, notes/assumptions/41.md) -/
def Obligations.HaltsAndHostFaults : Prop :=
  (∀ (c : Nat) (inc : Option Nat) (s : State) (x : Ctx), findCtx s c = some x →
    (x.state = .running →
      (∃ t, exec (.halt c) s = .next t ∧ t.mem = s.mem ∧ t.wave = s.wave ∧ t.bg = s.bg ∧ findCtx t c = some { x with
        state := .halting, reason := .host, inc := none, acks := [], fatal := none, haltAt := s.clock }) ∧
      (∀ u, descOwned s c = false → u = recallBytes x.descKey 640 s → ∃ t, exec (.preempt c inc) s = .next t ∧ t.mem = u.mem ∧ t.wave = s.wave ∧ t.bg = s.bg ∧
        findCtx t c = some { x with
          desc := cohRead u x.descKey 640, state := .halting, reason := .preempt, inc := inc, acks := [], fatal := none, haltAt := s.clock })) ∧
    (x.state ≠ .running → exec (.preempt c inc) s = .next s ∧
      (x.state ≠ .halting → ∃ t, exec (.halt c) s = .next t ∧ findCtx t c = some x))) ∧
  (∀ (c : Nat) (e : Engine) (s : State) (x : Ctx), findCtx s c = some x → x.state = .halting →
    (e ∈ ctxEngines s c → e ∉ x.acks → engineStopped s c e = true → recordOwned s x e = false →
      ∃ t y, exec (.engineStopAck c e) s = .next t ∧ findCtx t c = some y ∧ y.acks = x.acks ++ [e] ∧ y.state = .halting ∧
        y.reason = x.reason ∧ (writesRecords s x = false → t.mem = s.mem) ∧
        ∀ d k b, e = .sequencer d k b → ∀ w ∈ allWaves t, w.ctx = c → w.onSub d k b = true → ∀ z ∈ w.splits, z.state ≠ .sleep) ∧
    (s.plat.powered = true →
      ((∀ e ∈ ctxEngines s c, e ∈ x.acks) → ∃ t, exec (.haltComplete c) s = .next t ∧ t.mem = s.mem ∧ t.wave = s.wave ∧ t.bg = s.bg ∧
        findCtx t c = some { x with state := if x.reason = .preempt then .swapping else .halted }) ∧
      ((∃ e ∈ ctxEngines s c, e ∉ x.acks) → exec (.haltComplete c) s = .next s))) ∧
  (∀ (c : Nat) (s : State) (x : Ctx), findCtx s c = some x → x.state = .swapping → s.plat.powered = true → x.inc ≠ some c → swapWaits s x = false →
    ∃ t y, exec (.haltComplete c) s = .next t ∧ findCtx t c = some y ∧ y.state = (if assist s c 2 then .inSave else .inShadow) ∧
      ∀ w ∈ allWaves s, w.live = true → w.ctx = c → (w.die, w.core) ∈ ctxCores s c →
        w ∉ allWaves t ∧ ∃ i ∈ t.images, i.ctx = c ∧ i.die = w.die ∧ i.core = w.core ∧ saveWave w ∈ i.waves) ∧
  (∀ (id m quad : Nat) (s : State) (p : Pending) (i : Image) (w : Wave) (ty : Nat), findPending s id = some p → ctxRuns s p.ctx = false →
    p.kind = .load ty → m = accSize p.kind → quad = ((p.lanes.head?.map (·.lane)).getD 0) / 4 → quadReady s p quad = true →
    ((quadLanes p quad).map (·.lane)).Nodup → (∀ a ∈ quadLanes p quad, a.lane < 64 ∧ AtHome s p.team a.va a.key m) →
    (p.scalar = true ∨ p.thread = true → (quadLanes p quad).length = 1) → (p.thread = true → w.thread.isSome = true) →
    i ∈ s.images → w ∈ i.waves → w.uid = p.uid →
    ∃ t, exec (.owedReplyWrite id) s = .next t ∧ SameMem s t ∧ ∃ j ∈ t.images, ∃ v ∈ j.waves, v.uid = w.uid ∧
      ∀ a ∈ quadLanes p quad, ∀ r, r < (loadRegs ty (s.mem.readN a.key m)).length →
        replyReg p v a.lane r = (loadRegs ty (s.mem.readN a.key m)).getD r 0) ∧
  (∀ (c : Nat) (s : State) (x : Ctx), findCtx s c = some x →
    (x.state = .halted → s.plat.powered = true → x.late = [] →
      (∀ w ∈ allWaves s, w.ctx = c → ∀ y, findVer s c w.ver = some y → y.freed = false) →
      ∃ t, exec (.resume c) s = .next t ∧ t.mem = s.mem ∧ findCtx t c = some { x with state := .running, acks := [], fatal := none } ∧
        ((∀ p ∈ ctxCores s c, saveSlot s c p.1 p.2 = none) →
          t.wave = (if s.wave.ctx = c then afterStop s s.wave else s.wave) ∧
          t.bg = s.bg.map (fun w => if w.ctx = c then afterStop s w else w))) ∧
    (x.state ≠ .halted → exec (.resume c) s = .next s) ∧
    (x.state = .inSave → s.plat.powered = true → descOwned s c = false →
      (imagesFit s c = false → ∃ t, exec (.restore c) s = .next t ∧ findCtx t c = some x ∧
        t.images = s.images ∧ t.mem = s.mem ∧ t.plat.logNext = s.plat.logNext + 1) ∧
      (imagesFit s c = true → ∀ u, u = reloadDesc c (onCtx c (fun y => { y with state := .restoring }) s) →
        (replyOwed s c = true → exec (.restore c) s = .next u ∧ u.images = s.images ∧
          ∃ y, findCtx u c = some y ∧ y.state = .restoring ∧ y.vers = x.vers) ∧
        ∀ v, replyOwed s c = false → v = placeImages c u →
          ((∃ i ∈ v.images, i.ctx = c) → exec (.restore c) s = .next v) ∧
          ((∀ i ∈ v.images, i.ctx ≠ c) → (ctxDies v c).any (slotOwned v c · 20) = false → ∀ q busy z, restoreCopies c v = (q, busy) →
            (busy = true → exec (.restore c) s = .next q) ∧
            (busy = false → findCtx q c = some z → z.late = [] →
              (∀ w ∈ allWaves q, w.ctx = c → ∀ y, findVer q c w.ver = some y → y.freed = false) →
              ∃ t y, exec (.restore c) s = .next t ∧ findCtx t c = some y ∧ y.state = .running ∧ y.acks = [] ∧
                allWaves t = (allWaves q).map fun w => if w.ctx = c then afterStop q w else w))))) ∧
  (∀ (sel : BitVec 18) (c : Nat) (s : State) (x : Ctx) (w : Wave), selWave s sel c = some w → findCtx s c = some x →
    findWave w.uid s = some w → w.live = true →
    (∃ t v, exec (.stopwave sel c) s = .next t ∧ findWave w.uid t = some v ∧ v = w.mapSplits fun y => { y with stop := true }) ∧
    (∃ t v, exec (.resumewave sel c) s = .next t ∧ t.mem = s.mem ∧ findWave w.uid t = some v ∧
      v = w.mapSplits fun y => { y with stop := false })) ∧
  (∀ (uid e : Nat) (s r : State) (p : Posted) (b : List Byte), findPosted s uid e = some p →
    engineRead s p.die p.ctx (descN s p.ctx 0x0A0 8) 24 unitWant = (r, .ok, b) →
    (∀ w u k i, p.idx = none → w = bytesAt b 8 8 → i = .hfqPost uid e ∨ i = .hfqFullRetry uid e →
      (w < bytesAt b 0x10 8 + hfqSize b → reach r p.die p.ctx (descN r p.ctx 0x0A0 8 + 8) 8 unitWant = (u, .ok k) → k < 2 ^ 80 → placeHeld k = true → NoDirty u →
        ∃ t, exec i s = .next t ∧ t.mem = u.mem.writeN k (bytesOf 8 (w + 1)) ∧
          t.posted = u.posted.map fun y => if y = p then { y with idx := some w } else y) ∧
      (bytesAt b 0x10 8 + hfqSize b ≤ w → exec i s = .next r)) ∧
    (∀ n u k, p.idx = some n → p.written = false →
      (r.posted.any (fun y => y.ctx == p.ctx && y.idx.any fun j => j < n && (n - j) % hfqSize b == 0) = true →
        exec (.hfqPost uid e) s = .next r) ∧
      (r.posted.any (fun y => y.ctx == p.ctx && y.idx.any fun j => j < n && (n - j) % hfqSize b == 0) = false →
        reach r p.die p.ctx (hfqEntry r p b n) 64 unitWant = (u, .ok k) →
        k + 64 ≤ 2 ^ 80 → placeHeld k = true → placeHeld (k + 0x38) = true → NoDirty u →
        ∃ t, exec (.hfqPost uid e) s = .next t ∧ (t.posted = u.posted.map fun y => if y = p then { y with written := true } else y) ∧
            placeNat t.mem k 4 = (causeWord p.trap p.entry).toNat ∧ placeNat t.mem (k + 8) 8 = p.trap.addr.toNat ∧
            placeNat t.mem (k + 0x10) 8 = p.trap.mask.toNat ∧ placeNat t.mem (k + 0x18) 8 = p.trap.pc.toNat ∧
            placeNat t.mem (k + 0x20) 8 = n % 2 ^ 64 ∧ placeNat t.mem (k + 0x38) 8 = 0 ∧
            ∀ a, a < k ∨ k + 64 ≤ a → byteAt t a = byteAt u a)) ∧
    (∀ n u d x y, p.idx = some n → p.written = true → findCtx s p.ctx = some x → x.state = .running →
      engineRead r p.die p.ctx (hfqEntry r p b n + 0x38) 8 unitWant = (u, .ok, d) → findCtx u p.ctx = some y →
      (natOfBytes d = 0 → exec (.hfqCompletionPoll uid e) s = .next u) ∧
      (p.err = true → natOfBytes d = 1 → ∃ t, exec (.hfqCompletionPoll uid e) s = .next t ∧ t.mem = u.mem ∧ p ∉ t.posted ∧
        findCtx t p.ctx = some { y with paused := false }) ∧
      (∀ f, p.err = false → f = focusSplit p.uid p.entry u → f.wave.uid = p.uid → f.wave.ctx = p.ctx → f.wave.cur.idx = p.entry →
        f.wave.cur.work = .none →
        (natOfBytes d = 1 → ∃ t, exec (.hfqCompletionPoll uid e) s = .next t ∧ p ∉ t.posted ∧ t.mem = u.mem ∧
          t.wave.cur = { f.wave.cur with state := .ready, trap := none, tseq := 0, work := .none }) ∧
        (1 < natOfBytes d → y.state = .running → ∃ t z, exec (.hfqCompletionPoll uid e) s = .next t ∧ p ∉ t.posted ∧ t.mem = u.mem ∧
          findCtx t p.ctx = some z ∧ z.state = .halting ∧ z.reason = .fatal ∧ z.fatal = some (p.uid, p.entry, p.trap))))) ∧
  (∀ (c : Nat) (val : W64) (s : State), c < 4096 → afterReady s = true →
    (val.getLsbD 63 = false → ∃ t, exec (.cdescWrite c val) s = .next t ∧ t.mem = s.mem ∧ findCtx t c = none ∧
      Store.get 0 t.plat.cdesc c = 0 ∧ (∀ w ∈ allWaves t, w.ctx ≠ c) ∧ ∀ w ∈ allWaves s, w.live = true → w.ctx ≠ c →
        (w.mapSplits fun x => { x with held := x.held.filter fun e => !(e.ctx == c) }) ∈ allWaves t) ∧
    (∀ u, val.getLsbD 63 = true → s.plat.dev = .ready → s.plat.powered = true → (Store.get 0 s.plat.cdesc c).getLsbD 63 = false →
      copyOwns s (cdescKey val) 640 = false → u = recallBytes (cdescKey val) 640 s →
      cdescKey val % 64 = 0 → bytesAt (cohRead u (cdescKey val) 640) 0 4 % 4096 = c → findCtx s c = none →
      ∃ t, exec (.cdescWrite c val) s = .next t ∧ t.mem = u.mem ∧ Store.get 0 t.plat.cdesc c = val &&& 0x8003FFFFFFFFFFFF#64 ∧
        findCtx t c = some (newCtx c (cdescKey val) (cohRead u (cdescKey val) 640))))

/-! ### The host's side and the links -/

/-- Host register writes, mailbox commands and window accesses. REGISTER_WRITE to WIN, the MSI-X table, MBBUF or QDESC is,
but for reserved bits, what the host then reads there; pending vectors no longer masked are sent. A write of MBCMD
with GO starts a command that exists, ends another with STATUS 1, and is ignored while GO is set. Each command, only
when in progress, clears GO, sends vector 0 and does its work. PEER_WRITE sets an entry but 0, and the DIST paths anew
while no context is registered. BAR2_ACCESS reads and writes what its window entry maps and waits for a page entry
being rewritten or bytes a copy owns; an invalid entry or a fault reads ones, discards writes, counts and logs. The
model's choice: byte-wise writes and the waiting access (assumption 34), results after MBBUF's first 64 bytes (23),
STATUS 3 where verification fails and a slot of 2^40 bytes, beyond which FWSTAGE ends with STATUS 2 (36), the window's
extension (43), PCIe's masks and messages (44). (R481, R485, R486, R491, R493, R495, R497, notes/assumptions/23.md,
notes/assumptions/34.md, notes/assumptions/36.md, notes/assumptions/43.md, notes/assumptions/44.md) -/
def Obligations.HostRegistersAndMailbox : Prop :=
  (∀ (off : Nat) (data : List Byte) (s : State),
    (s.plat.dev = .reset → ∀ bar, exec (.registerWrite bar off data) s = .next s) ∧
    (s.plat.dev ≠ .reset →
      (0x400 ≤ off ∧ off + data.length ≤ 0x800) ∨ (0x1000 ≤ off ∧ off + data.length ≤ 0x2000) ∨
        (0x80000 ≤ off ∧ off + data.length ≤ 0x88000) →
      ∃ t, exec (.registerWrite 0 off data) s = .next t ∧ t = { s with plat := t.plat } ∧
        (∀ i, i < data.length → bar0Byte t (off + i) =
          if 0x80000 ≤ off then
            (if (off + i) % 16 < 12 then data.getD i 0 else if (off + i) % 16 = 12 then data.getD i 0 &&& 1 else 0)
          else if 0x1000 ≤ off ∨ (4 ≤ (off + i) % 16 ∧ (off + i) % 16 < 8) then data.getD i 0
          else if (off + i) % 16 = 8 then data.getD i 0 &&& 1 else 0) ∧
        (∀ o, o < off ∨ off + data.length ≤ o → o < 0x88000 ∨ 0x88100 ≤ o → bar0Byte t o = bar0Byte s o) ∧
        (off < 0x80000 → t.plat.pba = s.plat.pba ∧ t.plat.msgs = s.plat.msgs) ∧
        (0x80000 ≤ off → t.plat.pba = s.plat.pba.filter (msixMasked t.plat) ∧
          (∀ v ∈ s.plat.pba, msixMasked t.plat v = false → (msixAt t.plat v 0 8, msixAt t.plat v 8 4) ∈ t.plat.msgs) ∧
          t.plat.msgs.length + t.plat.pba.length = s.plat.msgs.length + s.plat.pba.length)) ∧
    (∀ slot, afterReady s = true → slot < 4096 → off = 4096 * slot + 8 → data.length = 8 →
      ∃ t, exec (.registerWrite 1 off data) s = .next t ∧ t = { s with queues := t.queues } ∧
        (∀ i, i < 8 → bar1Byte t (off + i) = if i < 6 then data.getD i 0 else if i = 6 then data.getD i 0 &&& 0x0F else 0) ∧
        ∀ o, o < off ∨ off + 8 ≤ o → bar1Byte t o = bar1Byte s o) ∧
    (∀ x : Nat, s.plat.dev ≠ .reset → off = 0x20 → data = bytesOf 8 x → bitAt x 63 = true →
      (s.plat.mbGo = true → exec (.registerWrite 0 off data) s = .next s) ∧
      (s.plat.mbGo = false → ∃ t, exec (.registerWrite 0 off data) s = .next t ∧ t = { s with plat := t.plat } ∧
        (1 ≤ x % 256 → x % 256 ≤ 9 → t.plat.mbGo = true ∧ t.plat.mbCmd = x % 256) ∧
        (x % 256 = 0 ∨ 9 < x % 256 → t.plat.mbGo = false ∧ t.plat.mbStatus = 1 ∧ MsixSent 0 s t)))) ∧
  (∀ (p : Nat) (val : W64) (s : State), afterReady s = true →
    (p = 0 → exec (.peerWrite p val) s = .next s) ∧
    (1 ≤ p → p < 256 → ∃ t, exec (.peerWrite p val) s = .next t ∧ t = { s with plat := t.plat } ∧
      (∀ n, Store.get 0 t.plat.peer n = if n = p then val &&& 0x80000000000000FF#64 else Store.get 0 s.plat.peer n) ∧
      t.plat.dist = if s.ctxs = [] then some (pathsOf t.plat) else s.plat.dist)) ∧
  (∀ (i : Instr) (cmd : Nat) (s : State),
    (i, cmd) ∈ [(Instr.readlog, 1), (.clrcnt, 2), (.powercap, 3), (.sensors, 4), (.fwstage, 5), (.fwcommit, 6), (.attest, 7), (.topo, 8)] →
    (mbHas cmd s = false → exec i s = .next s) ∧
    (mbHas cmd s = true → ∃ t, exec i s = .next t ∧ t = { s with plat := t.plat, dies := t.dies } ∧ t.plat.mbGo = false ∧
      MsixSent 0 s t ∧ (cmd ≠ 2 → t.dies = s.dies) ∧
      (cmd = 1 → t.plat.mbStatus = 0 ∧ ∀ j k e, j < 63 →
        (((List.range s.plat.log.length).zip s.plat.log).filter fun x =>
          mbNat s 0 8 ≤ s.plat.logNext - s.plat.log.length + x.1)[j]? = some (k, e) →
        mbBytes t (64 + 64 * j) 64 = logBytes (s.plat.logNext - s.plat.log.length + k) e) ∧
      (cmd = 2 → t.plat.mbStatus = 0 ∧
        (t.dies = s.dies.map fun d => { d with ce := 0, ue := 0, sdbres := 0, qsat := 0, winflt := 0 }) ∧
        t.plat.links = s.plat.links.map fun l => { l with crc := 0, linkErr := 0 }) ∧
      (cmd = 3 → (mbNat s 0 4 < 2000 ∨ 21000 < mbNat s 0 4 → t.plat.mbStatus = 2 ∧ t.plat.powercap = s.plat.powercap) ∧
        (2000 ≤ mbNat s 0 4 → mbNat s 0 4 ≤ 21000 → t.plat.mbStatus = 0 ∧ t.plat.powercap = mbNat s 0 4)) ∧
      (cmd = 4 ∨ cmd = 8 → t.plat.mbStatus = 0) ∧
      (cmd = 5 → t.plat.fwBoot = s.plat.fwBoot ∧
        (4084 < mbNat s 8 4 ∨ 2 ^ 40 < mbNat s 0 8 + mbNat s 8 4 → t.plat.mbStatus = 2 ∧ t.plat.fwImage = s.plat.fwImage) ∧
        (mbNat s 8 4 ≤ 4084 → mbNat s 0 8 + mbNat s 8 4 ≤ 2 ^ 40 → t.plat.mbStatus = 0 ∧ ∀ n,
          Store.get 0 t.plat.fwImage n = if inGroup (2 ^ 40 * spareSlot s + mbNat s 0 8) (mbNat s 8 4) n
            then Store.get 0 s.plat.mbbuf (12 + (n - (2 ^ 40 * spareSlot s + mbNat s 0 8))) else Store.get 0 s.plat.fwImage n)) ∧
      (cmd = 6 → if mayCommit s then t.plat.mbStatus = 0 ∧ t.plat.fwBoot = spareSlot s ∧ spareSlot s ∈ t.plat.fwValid ∧
          t.plat.minSvn = (if bitAt (mbNat s 0 4) 0 then max s.plat.minSvn (imageSvn s (spareSlot s)) else s.plat.minSvn)
        else t.plat.mbStatus = 3 ∧ t.plat.fwBoot = s.plat.fwBoot ∧ t.plat.minSvn = s.plat.minSvn) ∧
      (cmd = 7 → t.plat.mbStatus = (if s.plat.keyErased then 5 else if s.plat.leaf = 0 then 4 else 0) ∧
        t.plat.leaf = if s.plat.keyErased then s.plat.leaf else s.plat.leaf - 1))) ∧
  (∀ (io off n : Nat) (d : List Byte) (s : State), s.plat.dev ≠ .reset → inBar s.plat io off = true →
    (windowAt s io off = none → ∀ data, data = none ∨ data = some d →
      ∃ t, exec (.bar2Access io off data n) s = .next t ∧ t.mem = s.mem ∧ t.wave = s.wave ∧ t.bg = s.bg ∧
        (findDie t (attachedDie io)).winflt = satInc (findDie s (attachedDie io)).winflt ∧ t.plat.logNext = s.plat.logNext + 1 ∧
        (data = none → t.plat.readData = List.replicate n 0xFF)) ∧
    (∀ c va u x, windowAt s io off = some (c, va) →
      (pagePieces va n = [(va, n)] → reach s (attachedDie io) c va n { rd := true, sup := true } = (u, x) →
        (∀ k, x = .ok k → Plain u k n → NoDirty u →
          ∃ t, exec (.bar2Access io off none n) s = .next t ∧ t.mem = u.mem ∧ t.plat.readData = u.mem.readN k n) ∧
        (x = .miss → exec (.bar2Access io off none n) s = .next { u with inputs := .event (.bar2Access io off none n) :: u.inputs }) ∧
        (∀ a b g, x = .fault a b g → ∃ t, exec (.bar2Access io off none n) s = .next t ∧ t.mem = u.mem ∧
          t.plat.logNext = u.plat.logNext + 1 ∧ t.plat.readData = List.replicate n 0xFF)) ∧
      (pagePieces va d.length = [(va, d.length)] → reach s (attachedDie io) c va d.length { wr := true, sup := true } = (u, x) →
        (∀ k, x = .ok k → k < 2 ^ 80 → placeHeld k = true → NoDirty u →
          ∃ t, exec (.bar2Access io off (some d) n) s = .next t ∧ t.mem = u.mem.writeN k d ∧ t.wave = u.wave ∧ t.bg = u.bg ∧
            ∀ a, a < k ∨ k + d.length ≤ a → byteAt t a = byteAt u a) ∧
        (x = .miss → exec (.bar2Access io off (some d) n) s =
          .next { u with inputs := .event (.bar2Access io off (some d) n) :: u.inputs }) ∧
        (∀ a b g, x = .fault a b g → ∃ t, exec (.bar2Access io off (some d) n) s = .next t ∧ t.mem = u.mem ∧
          t.plat.logNext = u.plat.logNext + 1))))

/-- Grensan links, resets, sensors and the security alarm. FLIT_DATA takes only the next SEQ with a right CRC and performs
its slot's request at the home, unless repeated or while a copy owns its bytes; a wrong CRC or a gap sends a nak and
counts. FLIT_ACK retires what it acknowledges; FLIT_NAK replays and counts, after sixteen the link goes down as by
LINK_DOWN, its flits moving to a link that reaches the same module. FLIT_DISCOVERY brings a link up. POWER_GOOD takes
the device to BOOT or FAILED, memory zero; bring-up ends in READY or FAILED. RESET and PCIE_HOT_RESET halt all, then
take a READY device back to READY, keeping log, counters and alarm; FLR_SECONDARY clears V bits. SENSOR_SAMPLE moves
islands; a trip halts every context. SECURITY_ALARM halts, sets ALARM and logs; POWER_LOSS leaves one boot pointer.
The model's choice: an atomic's operand places, uncounted old SEQs, SEQ 0 at discovery, the other link (assumption
35), warm reset keeping links, islands' return, bring-up order (36). (R488, R489, R492, R494, R497, R499, R500, R501,
R502, 17_host_links_and_management.md Table 17.7, notes/assumptions/35.md, notes/assumptions/36.md) -/
def Obligations.LinksResetsAndSensors : Prop :=
  (∀ (link : Nat) (f b : List Byte) (s : State) (l : Link), findLink s link = some l → b = flitSlot f 0 →
    (∀ i, i = .flitData link f ∨ i = .flitAck link f ∨ i = .flitNak link f ∨ i = .flitDiscovery link f → l.up = true → crcOk f = false →
      ∃ t g, exec i s = .next t ∧ t.mem = s.mem ∧ findLink t link = some { l with crc := satInc l.crc } ∧
        t.plat.flits = (link, g) :: s.plat.flits ∧ bytesAt g 0 1 = 3 ∧ bytesAt g 8 4 = lastSeq l) ∧
    (crcOk f = true → flitOk 1 f = false → exec (.flitData link f) s = .next s) ∧
    (l.up = true → flitOk 1 f = true → bytesAt f 4 4 = l.rxSeq →
      (bytesAt f 1 1 = 0 → (∀ y ∈ s.plat.links, y.held = []) → ∃ t m, exec (.flitData link f) s = .next t ∧ t.mem = s.mem ∧ findLink t link = some m ∧
        m.rxSeq = (l.rxSeq + 1) % 2 ^ 32 ∧ m.crc = l.crc ∧ m.up = true) ∧
      (bytesAt f 1 1 = 1 → slotWaits s b none = true ∨ slotKind b = 2 →
        (∀ y ∈ s.plat.links, y.held = []) → (s.plat.links.map (·.id)).Nodup →
        ∃ t m, exec (.flitData link f) s = .next t ∧ findLink t link = some m ∧ m.held = [b] ∧ t.mem = s.mem) ∧
      (bytesAt f 1 1 = 1 → NoDirty s → (∀ y ∈ s.plat.links, y.held = []) → (s.plat.links.map (·.id)).Nodup →
        slotWaits s b none = false → Plain s (slotKey b) 8 → placeHeld (64 * (slotKey b / 64)) = true →
        (∀ x ∈ s.plat.seen, ¬ (x.1 = slotSource s link b ∧ x.2.1 = bytesAt b 4 4)) →
        ∃ t m, exec (.flitData link f) s = .next t ∧ findLink t link = some m ∧ m.rxSeq = (l.rxSeq + 1) % 2 ^ 32 ∧
          t.mem = (if slotKind b = 1 then s.mem.writeN (64 * (slotKey b / 64)) (b.drop 16)
            else if slotKind b = 3 then s.mem.writeN (slotKey b) (bytesOf (slotSize b)
              (atomNew (slotAop b) (slotAty b) (placeNat s.mem (slotKey b) (slotSize b)) (bytesAt (b.drop 16) 0 (slotSize b))
                (bytesAt (b.drop 16) 8 (slotSize b))))
            else s.mem)) ∧
      (bytesAt f 1 1 = 1 → NoDirty s → (∀ y ∈ s.plat.links, y.held = []) → (s.plat.links.map (·.id)).Nodup →
        (∀ g ∈ l.unacked, bytesAt g 4 4 ≠ bytesAt f 8 4) →
        (∃ x ∈ s.plat.seen, x.1 = slotSource s link b ∧ x.2.1 = bytesAt b 4 4) →
        ∃ t, exec (.flitData link f) s = .next t ∧ t.mem = s.mem)) ∧
    (l.up = true → flitOk 1 f = true → bytesAt f 4 4 ≠ l.rxSeq → ∃ t m, exec (.flitData link f) s = .next t ∧ t.mem = s.mem ∧
      findLink t link = some m ∧ m.rxSeq = l.rxSeq ∧
      m.crc = if (bytesAt f 4 4 + 2 ^ 32 - l.rxSeq) % 2 ^ 32 < 2 ^ 31 then satInc l.crc else l.crc) ∧
    (∀ n, l.up = true → flitOk 2 f = true → l.unacked.findIdx? (fun g => bytesAt g 4 4 == bytesAt f 8 4) = some n →
      ∃ t, exec (.flitAck link f) s = .next t ∧ t.mem = s.mem ∧
        findLink t link = some { l with unacked := l.unacked.drop (n + 1), replays := 0 }) ∧
    (l.up = true → flitOk 3 f = true → l.replays < 16 → ∃ t, exec (.flitNak link f) s = .next t ∧ t.mem = s.mem ∧
      findLink t link = some { l with replays := l.replays + 1, crc := satInc l.crc } ∧
      t.plat.flits = (l.unacked.map fun g => (link, g)).reverse ++ s.plat.flits) ∧
    (∀ i, i = .linkDown link ∨ (i = .flitNak link f ∧ l.up = true ∧ flitOk 3 f = true ∧ 16 ≤ l.replays) →
      ∃ t m, exec i s = .next t ∧ t.mem = s.mem ∧ findLink t link = some m ∧ m.up = false ∧ m.unacked = [] ∧
        ∀ o, (s.plat.links.find? fun x => x.up && x.id != link && sameModule l x) = some o →
          findLink s o.id = some o → ∃ q, findLink t o.id = some q ∧ q.unacked = o.unacked ++
            ((List.range l.unacked.length).zip l.unacked).map fun x => resequence ((o.txSeq + x.1) % 2 ^ 32) x.2) ∧
    (flitOk 4 f = true → s.plat.dev ≠ .reset → ∃ t m, exec (.flitDiscovery link f) s = .next t ∧ t.mem = s.mem ∧
      findLink t link = some m ∧ m.up = true ∧ m.peer = some (discovered f).uid ∧ discovered f ∈ m.routes ∧
      (∀ r ∈ l.routes, r ∈ m.routes) ∧
      (l.up = false → m.rxSeq = 0 ∧ m.txSeq = 0 ∧ m.held = []) ∧ (l.up = true → m.rxSeq = l.rxSeq ∧ m.unacked = l.unacked))) ∧
  (∀ (r : BringUp) (s : State), s.plat.fwBoot ≤ 1 →
    ∃ t, exec (.powerGood r) s = .next t ∧ t.ctxs = [] ∧ allWaves t = [] ∧ t.pend = [] ∧ t.queues = [] ∧ t.plat.alarm = false ∧
      t.plat.log = [] ∧ (∀ a, a < 2 ^ 70 → byteAt t a = 0) ∧ t.plat.fwBoot = s.plat.fwBoot ∧ t.plat.leaf = s.plat.leaf ∧
      (t.plat.dev = if r.slot0 = false ∧ r.slot1 = false then .failed else .boot) ∧
      (t.plat.dev = .boot → t.plat.bring = some (match r.failDie with
        | some d => some (d + 1)
        | none => if r.moduleFail then some 0 else none)) ∧
      (r.slot0 = true ∨ r.slot1 = true → t.plat.fwRun =
        if (if s.plat.fwBoot = 0 then r.slot0 else r.slot1) = true then s.plat.fwBoot else 1 - s.plat.fwBoot)) ∧
  (∀ (s : State) (f : Option Nat) (rest : List Action), s.agenda = .boot :: rest → s.plat.dev = .boot → s.plat.alarm = false →
    s.plat.bring = some f → ∃ t, step s = .next t ∧ t.mem = s.mem ∧ t.agenda = rest ∧ t.plat.bring = none ∧ t.plat.powered = true ∧
      t.plat.failDie = f.getD 0 ∧ t.plat.dev = if f = none then .ready else .failed) ∧
  (∀ (i : Instr) (s r u : State), s.plat.dev ≠ .reset →
    (i = .pcieHotReset ∧ r = s) ∨ (i = .reset ∧ mbHas 9 s = true ∧ r = mbDone 0 s) → u = haltForReset r →
    (s.pend = [] → s.owed = [] → u.plat.log = s.plat.log ∧ u.plat.alarm = s.plat.alarm ∧ u.plat.dev = s.plat.dev ∧
      u.plat.links = s.plat.links ∧ u.dies = s.dies) ∧
    ∃ t, exec i s = .next t ∧ t.ctxs = [] ∧ allWaves t = [] ∧ t.pend = [] ∧ t.queues = [] ∧ (∀ a, a < 2 ^ 70 → byteAt t a = 0) ∧
      t.plat.log = u.plat.log ∧ t.plat.logNext = u.plat.logNext ∧ t.plat.alarm = u.plat.alarm ∧
      (t.plat.links = u.plat.links.map fun l => { l with held := [] }) ∧ (u.plat.alarm = true → t.plat.dev = .alarm) ∧
      (u.plat.alarm = false → u.plat.dev = .ready → u.plat.fwBoot ≤ 1 → (0 ∈ u.plat.fwValid ∨ 1 ∈ u.plat.fwValid) → t.plat.dev = .ready) ∧
      ∀ d, (findDie t d).ce = (findDie u d).ce ∧ (findDie t d).ue = (findDie u d).ue ∧ (findDie t d).tlb = []) ∧
  (∀ (io : Nat) (s : State), (io = 0 ∨ 4 ≤ io ∨ io ∉ s.plat.fitted → exec (.flrSecondary io) s = .next s) ∧
    (1 ≤ io → io < 4 → io ∈ s.plat.fitted → ∃ t, exec (.flrSecondary io) s = .next t ∧ t = { s with plat := t.plat } ∧
      ∀ o, Store.get 0 t.plat.bar0 o = if 0x400 + 256 * io ≤ o ∧ o < 0x500 + 256 * io ∧ o % 16 = 8 then Store.get 0 s.plat.bar0 o &&& 0xFE#8
        else Store.get 0 s.plat.bar0 o)) ∧
  (∀ (r : Readings) (s : State), s.plat.powered = true →
    (tripped r = false → r.draw ≤ s.plat.powercap → (r.temps.map (·.1)).Nodup →
      ∃ t, exec (.sensorSample r) s = .next t ∧ t = { s with plat := t.plat } ∧ t.plat.readings = r ∧ t.plat.powered = true ∧
        (∀ i x, (i, x) ∈ r.temps → islandStep t i = if 95 < x then min (islandStep s i + 1) (floorStep i)
          else if x < 90 then 0 else islandStep s i) ∧
        ∀ i, (∀ x, (i, x) ∉ r.temps) → islandStep t i = islandStep s i) ∧
    (tripped r = true → ∃ t, exec (.sensorSample r) s = .next t ∧ t.plat.powered = false ∧
      (∀ c x, findCtx s c = some x → x.state = .running → ∃ y, findCtx t c = some y ∧ y.state = .halting ∧ y.reason = .host) ∧
      (s.ctxs = [] → allWaves t = [] ∧ ∀ a, a < 2 ^ 70 → byteAt t a = 0))) ∧
  (∀ (why : AlarmCause) (s : State), s.plat.dev ≠ .reset →
    ∃ t, exec (.securityAlarm why) s = .next t ∧ t.plat.dev = .alarm ∧ t.plat.alarm = true ∧ t.mem = s.mem ∧
      t.plat.keyErased = (s.plat.keyErased || s.plat.eraseFuse) ∧ MsixSent 1 s t ∧ t.plat.logNext = s.plat.logNext + 1 ∧
      ∀ c x, findCtx s c = some x → x.state = .running → ∃ y, findCtx t c = some y ∧ y.state = .halting ∧ y.reason = .security) ∧
  (∀ s : State, ∃ t, exec .powerLoss s = .next t ∧ t.plat.dev = .reset ∧ t.plat.powered = false ∧ t.ctxs = [] ∧ allWaves t = [] ∧
    (∀ a, a < 2 ^ 70 → byteAt t a = 0) ∧
    (t.plat.fwBoot = s.plat.fwBoot ∨ (mbHas 6 s = true ∧ mayCommit s = true ∧ t.plat.fwBoot = spareSlot s)))

/-! ### Reset and invariants -/

/-- The state after reset. At reset the module holds no context, wave, access, team, grid, queue or TLB entry; DEVSTAT is
RESET and the module is not powered; memory reads zero everywhere and is in its canonical form; CLOCK is 0 and no
alarm holds. MODE's reset value is RJTO 0x010 with MSPLIT 1 and every other bit zero. (Registers to which the manual
gives no reset value are the model's choice, assumption 24.) (R48, R497, R501, 02_encoding_and_assembly.md Table 2.10,
17_host_links_and_management.md Table 17.3) -/
def Obligations.ResetState : Prop :=
  State.reset.plat.dev = .reset ∧ State.reset.plat.powered = false ∧ State.reset.plat.alarm = false ∧ State.reset.plat.log = [] ∧
  State.reset.ctxs = [] ∧ allWaves State.reset = [] ∧ State.reset.pend = [] ∧ State.reset.teams = [] ∧ State.reset.grids = [] ∧
  State.reset.queues = [] ∧ State.reset.dies = [] ∧ State.reset.clock = 0 ∧ State.reset.mem.wf = true ∧
  (∀ a, byteAt State.reset a = 0) ∧ modeReset >>> 20 = 0x010#32 ∧ modeReset.getLsbD 4 = true ∧ modeReset &&& 0x000FFFEF#32 = 0

/-- Every step keeps memory in its canonical form. From every state whose memory lists its bytes at rising places and
lists no zero byte, a step that answers a next state gives a state whose memory does so too. Then equal memories are
equal data, and no byte has two values. (That an unlisted byte reads zero is the model's choice, assumption 5.) (R102,
R106, notes/assumptions/5.md) -/
def Obligations.StepKeepsMemoryCanonical : Prop :=
  ∀ s t : State, s.mem.wf = true → step s = .next t → t.mem.wf = true
end

