-- ==== Sys2Proof/Laws/State.lean ====
section
/-! SUPPORT. What each named update leaves alone: one lemma per field, true by rfl, so that no proof unfolds a record
update. -/
namespace Sys2Proof.Machine
open Sys2Proof

section
variable (s : State) (w : Wave)
/-! `onCur` -/
@[simp] theorem onCur_bg (f : Split → Split) : (onCur f s).bg = s.bg := rfl
@[simp] theorem onCur_acc (f : Split → Split) : (onCur f s).acc = s.acc := rfl
@[simp] theorem onCur_agenda (f : Split → Split) : (onCur f s).agenda = s.agenda := rfl
@[simp] theorem onCur_inputs (f : Split → Split) : (onCur f s).inputs = s.inputs := rfl
@[simp] theorem onCur_mem (f : Split → Split) : (onCur f s).mem = s.mem := rfl
@[simp] theorem onCur_raw (f : Split → Split) : (onCur f s).raw = s.raw := rfl
@[simp] theorem onCur_pend (f : Split → Split) : (onCur f s).pend = s.pend := rfl
@[simp] theorem onCur_nextId (f : Split → Split) : (onCur f s).nextId = s.nextId := rfl
@[simp] theorem onCur_teams (f : Split → Split) : (onCur f s).teams = s.teams := rfl
@[simp] theorem onCur_grids (f : Split → Split) : (onCur f s).grids = s.grids := rfl
@[simp] theorem onCur_bins (f : Split → Split) : (onCur f s).bins = s.bins := rfl
@[simp] theorem onCur_tags (f : Split → Split) : (onCur f s).tags = s.tags := rfl
@[simp] theorem onCur_dies (f : Split → Split) : (onCur f s).dies = s.dies := rfl
@[simp] theorem onCur_ctxs (f : Split → Split) : (onCur f s).ctxs = s.ctxs := rfl
@[simp] theorem onCur_images (f : Split → Split) : (onCur f s).images = s.images := rfl
@[simp] theorem onCur_queues (f : Split → Split) : (onCur f s).queues = s.queues := rfl
@[simp] theorem onCur_owed (f : Split → Split) : (onCur f s).owed = s.owed := rfl
@[simp] theorem onCur_posted (f : Split → Split) : (onCur f s).posted = s.posted := rfl
@[simp] theorem onCur_copies (f : Split → Split) : (onCur f s).copies = s.copies := rfl
@[simp] theorem onCur_plat (f : Split → Split) : (onCur f s).plat = s.plat := rfl
@[simp] theorem onCur_cycle (f : Split → Split) : (onCur f s).cycle = s.cycle := rfl
@[simp] theorem onCur_clock (f : Split → Split) : (onCur f s).clock = s.clock := rfl
@[simp] theorem onCur_freeCtr (f : Split → Split) : (onCur f s).freeCtr = s.freeCtr := rfl
@[simp] theorem onCur_wave (f : Split → Split) : (onCur f s).wave = { s.wave with cur := f s.wave.cur } := rfl
/-! `onFocus` -/
@[simp] theorem onFocus_bg (f : Wave → Wave) : (onFocus f s).bg = s.bg := rfl
@[simp] theorem onFocus_acc (f : Wave → Wave) : (onFocus f s).acc = s.acc := rfl
@[simp] theorem onFocus_agenda (f : Wave → Wave) : (onFocus f s).agenda = s.agenda := rfl
@[simp] theorem onFocus_inputs (f : Wave → Wave) : (onFocus f s).inputs = s.inputs := rfl
@[simp] theorem onFocus_mem (f : Wave → Wave) : (onFocus f s).mem = s.mem := rfl
@[simp] theorem onFocus_raw (f : Wave → Wave) : (onFocus f s).raw = s.raw := rfl
@[simp] theorem onFocus_pend (f : Wave → Wave) : (onFocus f s).pend = s.pend := rfl
@[simp] theorem onFocus_nextId (f : Wave → Wave) : (onFocus f s).nextId = s.nextId := rfl
@[simp] theorem onFocus_teams (f : Wave → Wave) : (onFocus f s).teams = s.teams := rfl
@[simp] theorem onFocus_grids (f : Wave → Wave) : (onFocus f s).grids = s.grids := rfl
@[simp] theorem onFocus_bins (f : Wave → Wave) : (onFocus f s).bins = s.bins := rfl
@[simp] theorem onFocus_tags (f : Wave → Wave) : (onFocus f s).tags = s.tags := rfl
@[simp] theorem onFocus_dies (f : Wave → Wave) : (onFocus f s).dies = s.dies := rfl
@[simp] theorem onFocus_ctxs (f : Wave → Wave) : (onFocus f s).ctxs = s.ctxs := rfl
@[simp] theorem onFocus_images (f : Wave → Wave) : (onFocus f s).images = s.images := rfl
@[simp] theorem onFocus_queues (f : Wave → Wave) : (onFocus f s).queues = s.queues := rfl
@[simp] theorem onFocus_owed (f : Wave → Wave) : (onFocus f s).owed = s.owed := rfl
@[simp] theorem onFocus_posted (f : Wave → Wave) : (onFocus f s).posted = s.posted := rfl
@[simp] theorem onFocus_copies (f : Wave → Wave) : (onFocus f s).copies = s.copies := rfl
@[simp] theorem onFocus_plat (f : Wave → Wave) : (onFocus f s).plat = s.plat := rfl
@[simp] theorem onFocus_cycle (f : Wave → Wave) : (onFocus f s).cycle = s.cycle := rfl
@[simp] theorem onFocus_clock (f : Wave → Wave) : (onFocus f s).clock = s.clock := rfl
@[simp] theorem onFocus_freeCtr (f : Wave → Wave) : (onFocus f s).freeCtr = s.freeCtr := rfl
@[simp] theorem onFocus_wave (f : Wave → Wave) : (onFocus f s).wave = f s.wave := rfl
/-! `onThread` -/
@[simp] theorem onThread_bg (f : Thread → Thread) : (onThread f s).bg = s.bg := rfl
@[simp] theorem onThread_acc (f : Thread → Thread) : (onThread f s).acc = s.acc := rfl
@[simp] theorem onThread_agenda (f : Thread → Thread) : (onThread f s).agenda = s.agenda := rfl
@[simp] theorem onThread_inputs (f : Thread → Thread) : (onThread f s).inputs = s.inputs := rfl
@[simp] theorem onThread_mem (f : Thread → Thread) : (onThread f s).mem = s.mem := rfl
@[simp] theorem onThread_raw (f : Thread → Thread) : (onThread f s).raw = s.raw := rfl
@[simp] theorem onThread_pend (f : Thread → Thread) : (onThread f s).pend = s.pend := rfl
@[simp] theorem onThread_nextId (f : Thread → Thread) : (onThread f s).nextId = s.nextId := rfl
@[simp] theorem onThread_teams (f : Thread → Thread) : (onThread f s).teams = s.teams := rfl
@[simp] theorem onThread_grids (f : Thread → Thread) : (onThread f s).grids = s.grids := rfl
@[simp] theorem onThread_bins (f : Thread → Thread) : (onThread f s).bins = s.bins := rfl
@[simp] theorem onThread_tags (f : Thread → Thread) : (onThread f s).tags = s.tags := rfl
@[simp] theorem onThread_dies (f : Thread → Thread) : (onThread f s).dies = s.dies := rfl
@[simp] theorem onThread_ctxs (f : Thread → Thread) : (onThread f s).ctxs = s.ctxs := rfl
@[simp] theorem onThread_images (f : Thread → Thread) : (onThread f s).images = s.images := rfl
@[simp] theorem onThread_queues (f : Thread → Thread) : (onThread f s).queues = s.queues := rfl
@[simp] theorem onThread_owed (f : Thread → Thread) : (onThread f s).owed = s.owed := rfl
@[simp] theorem onThread_posted (f : Thread → Thread) : (onThread f s).posted = s.posted := rfl
@[simp] theorem onThread_copies (f : Thread → Thread) : (onThread f s).copies = s.copies := rfl
@[simp] theorem onThread_plat (f : Thread → Thread) : (onThread f s).plat = s.plat := rfl
@[simp] theorem onThread_cycle (f : Thread → Thread) : (onThread f s).cycle = s.cycle := rfl
@[simp] theorem onThread_clock (f : Thread → Thread) : (onThread f s).clock = s.clock := rfl
@[simp] theorem onThread_freeCtr (f : Thread → Thread) : (onThread f s).freeCtr = s.freeCtr := rfl
@[simp] theorem onThread_wave (f : Thread → Thread) : (onThread f s).wave = { s.wave with thread := s.wave.thread.map f } := rfl
/-! `mapWaves` -/
@[simp] theorem mapWaves_acc (f : Wave → Wave) : (mapWaves f s).acc = s.acc := rfl
@[simp] theorem mapWaves_agenda (f : Wave → Wave) : (mapWaves f s).agenda = s.agenda := rfl
@[simp] theorem mapWaves_inputs (f : Wave → Wave) : (mapWaves f s).inputs = s.inputs := rfl
@[simp] theorem mapWaves_mem (f : Wave → Wave) : (mapWaves f s).mem = s.mem := rfl
@[simp] theorem mapWaves_raw (f : Wave → Wave) : (mapWaves f s).raw = s.raw := rfl
@[simp] theorem mapWaves_pend (f : Wave → Wave) : (mapWaves f s).pend = s.pend := rfl
@[simp] theorem mapWaves_nextId (f : Wave → Wave) : (mapWaves f s).nextId = s.nextId := rfl
@[simp] theorem mapWaves_teams (f : Wave → Wave) : (mapWaves f s).teams = s.teams := rfl
@[simp] theorem mapWaves_grids (f : Wave → Wave) : (mapWaves f s).grids = s.grids := rfl
@[simp] theorem mapWaves_bins (f : Wave → Wave) : (mapWaves f s).bins = s.bins := rfl
@[simp] theorem mapWaves_tags (f : Wave → Wave) : (mapWaves f s).tags = s.tags := rfl
@[simp] theorem mapWaves_dies (f : Wave → Wave) : (mapWaves f s).dies = s.dies := rfl
@[simp] theorem mapWaves_ctxs (f : Wave → Wave) : (mapWaves f s).ctxs = s.ctxs := rfl
@[simp] theorem mapWaves_images (f : Wave → Wave) : (mapWaves f s).images = s.images := rfl
@[simp] theorem mapWaves_queues (f : Wave → Wave) : (mapWaves f s).queues = s.queues := rfl
@[simp] theorem mapWaves_owed (f : Wave → Wave) : (mapWaves f s).owed = s.owed := rfl
@[simp] theorem mapWaves_posted (f : Wave → Wave) : (mapWaves f s).posted = s.posted := rfl
@[simp] theorem mapWaves_copies (f : Wave → Wave) : (mapWaves f s).copies = s.copies := rfl
@[simp] theorem mapWaves_plat (f : Wave → Wave) : (mapWaves f s).plat = s.plat := rfl
@[simp] theorem mapWaves_cycle (f : Wave → Wave) : (mapWaves f s).cycle = s.cycle := rfl
@[simp] theorem mapWaves_clock (f : Wave → Wave) : (mapWaves f s).clock = s.clock := rfl
@[simp] theorem mapWaves_freeCtr (f : Wave → Wave) : (mapWaves f s).freeCtr = s.freeCtr := rfl
/-! `onWave` -/
@[simp] theorem onWave_acc (u : Nat) (f : Wave → Wave) : (onWave u f s).acc = s.acc := rfl
@[simp] theorem onWave_agenda (u : Nat) (f : Wave → Wave) : (onWave u f s).agenda = s.agenda := rfl
@[simp] theorem onWave_inputs (u : Nat) (f : Wave → Wave) : (onWave u f s).inputs = s.inputs := rfl
@[simp] theorem onWave_mem (u : Nat) (f : Wave → Wave) : (onWave u f s).mem = s.mem := rfl
@[simp] theorem onWave_raw (u : Nat) (f : Wave → Wave) : (onWave u f s).raw = s.raw := rfl
@[simp] theorem onWave_pend (u : Nat) (f : Wave → Wave) : (onWave u f s).pend = s.pend := rfl
@[simp] theorem onWave_nextId (u : Nat) (f : Wave → Wave) : (onWave u f s).nextId = s.nextId := rfl
@[simp] theorem onWave_teams (u : Nat) (f : Wave → Wave) : (onWave u f s).teams = s.teams := rfl
@[simp] theorem onWave_grids (u : Nat) (f : Wave → Wave) : (onWave u f s).grids = s.grids := rfl
@[simp] theorem onWave_bins (u : Nat) (f : Wave → Wave) : (onWave u f s).bins = s.bins := rfl
@[simp] theorem onWave_tags (u : Nat) (f : Wave → Wave) : (onWave u f s).tags = s.tags := rfl
@[simp] theorem onWave_dies (u : Nat) (f : Wave → Wave) : (onWave u f s).dies = s.dies := rfl
@[simp] theorem onWave_ctxs (u : Nat) (f : Wave → Wave) : (onWave u f s).ctxs = s.ctxs := rfl
@[simp] theorem onWave_images (u : Nat) (f : Wave → Wave) : (onWave u f s).images = s.images := rfl
@[simp] theorem onWave_queues (u : Nat) (f : Wave → Wave) : (onWave u f s).queues = s.queues := rfl
@[simp] theorem onWave_owed (u : Nat) (f : Wave → Wave) : (onWave u f s).owed = s.owed := rfl
@[simp] theorem onWave_posted (u : Nat) (f : Wave → Wave) : (onWave u f s).posted = s.posted := rfl
@[simp] theorem onWave_copies (u : Nat) (f : Wave → Wave) : (onWave u f s).copies = s.copies := rfl
@[simp] theorem onWave_plat (u : Nat) (f : Wave → Wave) : (onWave u f s).plat = s.plat := rfl
@[simp] theorem onWave_cycle (u : Nat) (f : Wave → Wave) : (onWave u f s).cycle = s.cycle := rfl
@[simp] theorem onWave_clock (u : Nat) (f : Wave → Wave) : (onWave u f s).clock = s.clock := rfl
@[simp] theorem onWave_freeCtr (u : Nat) (f : Wave → Wave) : (onWave u f s).freeCtr = s.freeCtr := rfl
/-! `onCtx` -/
@[simp] theorem onCtx_wave (c : Nat) (f : Ctx → Ctx) : (onCtx c f s).wave = s.wave := rfl
@[simp] theorem onCtx_bg (c : Nat) (f : Ctx → Ctx) : (onCtx c f s).bg = s.bg := rfl
@[simp] theorem onCtx_acc (c : Nat) (f : Ctx → Ctx) : (onCtx c f s).acc = s.acc := rfl
@[simp] theorem onCtx_agenda (c : Nat) (f : Ctx → Ctx) : (onCtx c f s).agenda = s.agenda := rfl
@[simp] theorem onCtx_inputs (c : Nat) (f : Ctx → Ctx) : (onCtx c f s).inputs = s.inputs := rfl
@[simp] theorem onCtx_mem (c : Nat) (f : Ctx → Ctx) : (onCtx c f s).mem = s.mem := rfl
@[simp] theorem onCtx_raw (c : Nat) (f : Ctx → Ctx) : (onCtx c f s).raw = s.raw := rfl
@[simp] theorem onCtx_pend (c : Nat) (f : Ctx → Ctx) : (onCtx c f s).pend = s.pend := rfl
@[simp] theorem onCtx_nextId (c : Nat) (f : Ctx → Ctx) : (onCtx c f s).nextId = s.nextId := rfl
@[simp] theorem onCtx_teams (c : Nat) (f : Ctx → Ctx) : (onCtx c f s).teams = s.teams := rfl
@[simp] theorem onCtx_grids (c : Nat) (f : Ctx → Ctx) : (onCtx c f s).grids = s.grids := rfl
@[simp] theorem onCtx_bins (c : Nat) (f : Ctx → Ctx) : (onCtx c f s).bins = s.bins := rfl
@[simp] theorem onCtx_tags (c : Nat) (f : Ctx → Ctx) : (onCtx c f s).tags = s.tags := rfl
@[simp] theorem onCtx_dies (c : Nat) (f : Ctx → Ctx) : (onCtx c f s).dies = s.dies := rfl
@[simp] theorem onCtx_images (c : Nat) (f : Ctx → Ctx) : (onCtx c f s).images = s.images := rfl
@[simp] theorem onCtx_queues (c : Nat) (f : Ctx → Ctx) : (onCtx c f s).queues = s.queues := rfl
@[simp] theorem onCtx_owed (c : Nat) (f : Ctx → Ctx) : (onCtx c f s).owed = s.owed := rfl
@[simp] theorem onCtx_posted (c : Nat) (f : Ctx → Ctx) : (onCtx c f s).posted = s.posted := rfl
@[simp] theorem onCtx_copies (c : Nat) (f : Ctx → Ctx) : (onCtx c f s).copies = s.copies := rfl
@[simp] theorem onCtx_plat (c : Nat) (f : Ctx → Ctx) : (onCtx c f s).plat = s.plat := rfl
@[simp] theorem onCtx_cycle (c : Nat) (f : Ctx → Ctx) : (onCtx c f s).cycle = s.cycle := rfl
@[simp] theorem onCtx_clock (c : Nat) (f : Ctx → Ctx) : (onCtx c f s).clock = s.clock := rfl
@[simp] theorem onCtx_freeCtr (c : Nat) (f : Ctx → Ctx) : (onCtx c f s).freeCtr = s.freeCtr := rfl
/-! `onTeam` -/
@[simp] theorem onTeam_wave (c : Nat) (f : Team → Team) : (onTeam c f s).wave = s.wave := rfl
@[simp] theorem onTeam_bg (c : Nat) (f : Team → Team) : (onTeam c f s).bg = s.bg := rfl
@[simp] theorem onTeam_acc (c : Nat) (f : Team → Team) : (onTeam c f s).acc = s.acc := rfl
@[simp] theorem onTeam_agenda (c : Nat) (f : Team → Team) : (onTeam c f s).agenda = s.agenda := rfl
@[simp] theorem onTeam_inputs (c : Nat) (f : Team → Team) : (onTeam c f s).inputs = s.inputs := rfl
@[simp] theorem onTeam_mem (c : Nat) (f : Team → Team) : (onTeam c f s).mem = s.mem := rfl
@[simp] theorem onTeam_raw (c : Nat) (f : Team → Team) : (onTeam c f s).raw = s.raw := rfl
@[simp] theorem onTeam_pend (c : Nat) (f : Team → Team) : (onTeam c f s).pend = s.pend := rfl
@[simp] theorem onTeam_nextId (c : Nat) (f : Team → Team) : (onTeam c f s).nextId = s.nextId := rfl
@[simp] theorem onTeam_grids (c : Nat) (f : Team → Team) : (onTeam c f s).grids = s.grids := rfl
@[simp] theorem onTeam_bins (c : Nat) (f : Team → Team) : (onTeam c f s).bins = s.bins := rfl
@[simp] theorem onTeam_tags (c : Nat) (f : Team → Team) : (onTeam c f s).tags = s.tags := rfl
@[simp] theorem onTeam_dies (c : Nat) (f : Team → Team) : (onTeam c f s).dies = s.dies := rfl
@[simp] theorem onTeam_ctxs (c : Nat) (f : Team → Team) : (onTeam c f s).ctxs = s.ctxs := rfl
@[simp] theorem onTeam_images (c : Nat) (f : Team → Team) : (onTeam c f s).images = s.images := rfl
@[simp] theorem onTeam_queues (c : Nat) (f : Team → Team) : (onTeam c f s).queues = s.queues := rfl
@[simp] theorem onTeam_owed (c : Nat) (f : Team → Team) : (onTeam c f s).owed = s.owed := rfl
@[simp] theorem onTeam_posted (c : Nat) (f : Team → Team) : (onTeam c f s).posted = s.posted := rfl
@[simp] theorem onTeam_copies (c : Nat) (f : Team → Team) : (onTeam c f s).copies = s.copies := rfl
@[simp] theorem onTeam_plat (c : Nat) (f : Team → Team) : (onTeam c f s).plat = s.plat := rfl
@[simp] theorem onTeam_cycle (c : Nat) (f : Team → Team) : (onTeam c f s).cycle = s.cycle := rfl
@[simp] theorem onTeam_clock (c : Nat) (f : Team → Team) : (onTeam c f s).clock = s.clock := rfl
@[simp] theorem onTeam_freeCtr (c : Nat) (f : Team → Team) : (onTeam c f s).freeCtr = s.freeCtr := rfl
/-! `raiseHalt` -/
@[simp] theorem raiseHalt_wave (c : Nat) (r : Reason) (x : Option (Nat × Nat × Trap)) : (raiseHalt c r x s).wave = s.wave := rfl
@[simp] theorem raiseHalt_bg (c : Nat) (r : Reason) (x : Option (Nat × Nat × Trap)) : (raiseHalt c r x s).bg = s.bg := rfl
@[simp] theorem raiseHalt_acc (c : Nat) (r : Reason) (x : Option (Nat × Nat × Trap)) : (raiseHalt c r x s).acc = s.acc := rfl
@[simp] theorem raiseHalt_agenda (c : Nat) (r : Reason) (x : Option (Nat × Nat × Trap)) : (raiseHalt c r x s).agenda = s.agenda := rfl
@[simp] theorem raiseHalt_inputs (c : Nat) (r : Reason) (x : Option (Nat × Nat × Trap)) : (raiseHalt c r x s).inputs = s.inputs := rfl
@[simp] theorem raiseHalt_mem (c : Nat) (r : Reason) (x : Option (Nat × Nat × Trap)) : (raiseHalt c r x s).mem = s.mem := rfl
@[simp] theorem raiseHalt_raw (c : Nat) (r : Reason) (x : Option (Nat × Nat × Trap)) : (raiseHalt c r x s).raw = s.raw := rfl
@[simp] theorem raiseHalt_pend (c : Nat) (r : Reason) (x : Option (Nat × Nat × Trap)) : (raiseHalt c r x s).pend = s.pend := rfl
@[simp] theorem raiseHalt_nextId (c : Nat) (r : Reason) (x : Option (Nat × Nat × Trap)) : (raiseHalt c r x s).nextId = s.nextId := rfl
@[simp] theorem raiseHalt_teams (c : Nat) (r : Reason) (x : Option (Nat × Nat × Trap)) : (raiseHalt c r x s).teams = s.teams := rfl
@[simp] theorem raiseHalt_grids (c : Nat) (r : Reason) (x : Option (Nat × Nat × Trap)) : (raiseHalt c r x s).grids = s.grids := rfl
@[simp] theorem raiseHalt_bins (c : Nat) (r : Reason) (x : Option (Nat × Nat × Trap)) : (raiseHalt c r x s).bins = s.bins := rfl
@[simp] theorem raiseHalt_tags (c : Nat) (r : Reason) (x : Option (Nat × Nat × Trap)) : (raiseHalt c r x s).tags = s.tags := rfl
@[simp] theorem raiseHalt_dies (c : Nat) (r : Reason) (x : Option (Nat × Nat × Trap)) : (raiseHalt c r x s).dies = s.dies := rfl
@[simp] theorem raiseHalt_images (c : Nat) (r : Reason) (x : Option (Nat × Nat × Trap)) : (raiseHalt c r x s).images = s.images := rfl
@[simp] theorem raiseHalt_queues (c : Nat) (r : Reason) (x : Option (Nat × Nat × Trap)) : (raiseHalt c r x s).queues = s.queues := rfl
@[simp] theorem raiseHalt_owed (c : Nat) (r : Reason) (x : Option (Nat × Nat × Trap)) : (raiseHalt c r x s).owed = s.owed := rfl
@[simp] theorem raiseHalt_posted (c : Nat) (r : Reason) (x : Option (Nat × Nat × Trap)) : (raiseHalt c r x s).posted = s.posted := rfl
@[simp] theorem raiseHalt_copies (c : Nat) (r : Reason) (x : Option (Nat × Nat × Trap)) : (raiseHalt c r x s).copies = s.copies := rfl
@[simp] theorem raiseHalt_plat (c : Nat) (r : Reason) (x : Option (Nat × Nat × Trap)) : (raiseHalt c r x s).plat = s.plat := rfl
@[simp] theorem raiseHalt_cycle (c : Nat) (r : Reason) (x : Option (Nat × Nat × Trap)) : (raiseHalt c r x s).cycle = s.cycle := rfl
@[simp] theorem raiseHalt_clock (c : Nat) (r : Reason) (x : Option (Nat × Nat × Trap)) : (raiseHalt c r x s).clock = s.clock := rfl
@[simp] theorem raiseHalt_freeCtr (c : Nat) (r : Reason) (x : Option (Nat × Nat × Trap)) : (raiseHalt c r x s).freeCtr = s.freeCtr := rfl
/-! `onDie` -/
@[simp] theorem onDie_wave (c : Nat) (f : Die → Die) : (onDie c f s).wave = s.wave := by unfold onDie; split <;> rfl
@[simp] theorem onDie_bg (c : Nat) (f : Die → Die) : (onDie c f s).bg = s.bg := by unfold onDie; split <;> rfl
@[simp] theorem onDie_acc (c : Nat) (f : Die → Die) : (onDie c f s).acc = s.acc := by unfold onDie; split <;> rfl
@[simp] theorem onDie_agenda (c : Nat) (f : Die → Die) : (onDie c f s).agenda = s.agenda := by unfold onDie; split <;> rfl
@[simp] theorem onDie_inputs (c : Nat) (f : Die → Die) : (onDie c f s).inputs = s.inputs := by unfold onDie; split <;> rfl
@[simp] theorem onDie_mem (c : Nat) (f : Die → Die) : (onDie c f s).mem = s.mem := by unfold onDie; split <;> rfl
@[simp] theorem onDie_raw (c : Nat) (f : Die → Die) : (onDie c f s).raw = s.raw := by unfold onDie; split <;> rfl
@[simp] theorem onDie_pend (c : Nat) (f : Die → Die) : (onDie c f s).pend = s.pend := by unfold onDie; split <;> rfl
@[simp] theorem onDie_nextId (c : Nat) (f : Die → Die) : (onDie c f s).nextId = s.nextId := by unfold onDie; split <;> rfl
@[simp] theorem onDie_teams (c : Nat) (f : Die → Die) : (onDie c f s).teams = s.teams := by unfold onDie; split <;> rfl
@[simp] theorem onDie_grids (c : Nat) (f : Die → Die) : (onDie c f s).grids = s.grids := by unfold onDie; split <;> rfl
@[simp] theorem onDie_bins (c : Nat) (f : Die → Die) : (onDie c f s).bins = s.bins := by unfold onDie; split <;> rfl
@[simp] theorem onDie_tags (c : Nat) (f : Die → Die) : (onDie c f s).tags = s.tags := by unfold onDie; split <;> rfl
@[simp] theorem onDie_ctxs (c : Nat) (f : Die → Die) : (onDie c f s).ctxs = s.ctxs := by unfold onDie; split <;> rfl
@[simp] theorem onDie_images (c : Nat) (f : Die → Die) : (onDie c f s).images = s.images := by unfold onDie; split <;> rfl
@[simp] theorem onDie_queues (c : Nat) (f : Die → Die) : (onDie c f s).queues = s.queues := by unfold onDie; split <;> rfl
@[simp] theorem onDie_owed (c : Nat) (f : Die → Die) : (onDie c f s).owed = s.owed := by unfold onDie; split <;> rfl
@[simp] theorem onDie_posted (c : Nat) (f : Die → Die) : (onDie c f s).posted = s.posted := by unfold onDie; split <;> rfl
@[simp] theorem onDie_copies (c : Nat) (f : Die → Die) : (onDie c f s).copies = s.copies := by unfold onDie; split <;> rfl
@[simp] theorem onDie_plat (c : Nat) (f : Die → Die) : (onDie c f s).plat = s.plat := by unfold onDie; split <;> rfl
@[simp] theorem onDie_cycle (c : Nat) (f : Die → Die) : (onDie c f s).cycle = s.cycle := by unfold onDie; split <;> rfl
@[simp] theorem onDie_clock (c : Nat) (f : Die → Die) : (onDie c f s).clock = s.clock := by unfold onDie; split <;> rfl
@[simp] theorem onDie_freeCtr (c : Nat) (f : Die → Die) : (onDie c f s).freeCtr = s.freeCtr := by unfold onDie; split <;> rfl
/-! `memPut` -/
@[simp] theorem memPut_wave (k : Nat) (bs : List Byte) : (memPut s k bs).wave = s.wave := by unfold memPut; split <;> rfl
@[simp] theorem memPut_bg (k : Nat) (bs : List Byte) : (memPut s k bs).bg = s.bg := by unfold memPut; split <;> rfl
@[simp] theorem memPut_acc (k : Nat) (bs : List Byte) : (memPut s k bs).acc = s.acc := by unfold memPut; split <;> rfl
@[simp] theorem memPut_agenda (k : Nat) (bs : List Byte) : (memPut s k bs).agenda = s.agenda := by unfold memPut; split <;> rfl
@[simp] theorem memPut_inputs (k : Nat) (bs : List Byte) : (memPut s k bs).inputs = s.inputs := by unfold memPut; split <;> rfl
@[simp] theorem memPut_pend (k : Nat) (bs : List Byte) : (memPut s k bs).pend = s.pend := by unfold memPut; split <;> rfl
@[simp] theorem memPut_nextId (k : Nat) (bs : List Byte) : (memPut s k bs).nextId = s.nextId := by unfold memPut; split <;> rfl
@[simp] theorem memPut_teams (k : Nat) (bs : List Byte) : (memPut s k bs).teams = s.teams := by unfold memPut; split <;> rfl
@[simp] theorem memPut_grids (k : Nat) (bs : List Byte) : (memPut s k bs).grids = s.grids := by unfold memPut; split <;> rfl
@[simp] theorem memPut_bins (k : Nat) (bs : List Byte) : (memPut s k bs).bins = s.bins := by unfold memPut; split <;> rfl
@[simp] theorem memPut_tags (k : Nat) (bs : List Byte) : (memPut s k bs).tags = s.tags := by unfold memPut; split <;> rfl
@[simp] theorem memPut_dies (k : Nat) (bs : List Byte) : (memPut s k bs).dies = s.dies := by unfold memPut; split <;> rfl
@[simp] theorem memPut_ctxs (k : Nat) (bs : List Byte) : (memPut s k bs).ctxs = s.ctxs := by unfold memPut; split <;> rfl
@[simp] theorem memPut_images (k : Nat) (bs : List Byte) : (memPut s k bs).images = s.images := by unfold memPut; split <;> rfl
@[simp] theorem memPut_queues (k : Nat) (bs : List Byte) : (memPut s k bs).queues = s.queues := by unfold memPut; split <;> rfl
@[simp] theorem memPut_owed (k : Nat) (bs : List Byte) : (memPut s k bs).owed = s.owed := by unfold memPut; split <;> rfl
@[simp] theorem memPut_posted (k : Nat) (bs : List Byte) : (memPut s k bs).posted = s.posted := by unfold memPut; split <;> rfl
@[simp] theorem memPut_copies (k : Nat) (bs : List Byte) : (memPut s k bs).copies = s.copies := by unfold memPut; split <;> rfl
@[simp] theorem memPut_plat (k : Nat) (bs : List Byte) : (memPut s k bs).plat = s.plat := by unfold memPut; split <;> rfl
@[simp] theorem memPut_cycle (k : Nat) (bs : List Byte) : (memPut s k bs).cycle = s.cycle := by unfold memPut; split <;> rfl
@[simp] theorem memPut_clock (k : Nat) (bs : List Byte) : (memPut s k bs).clock = s.clock := by unfold memPut; split <;> rfl
@[simp] theorem memPut_freeCtr (k : Nat) (bs : List Byte) : (memPut s k bs).freeCtr = s.freeCtr := by unfold memPut; split <;> rfl
/-! `memZero` -/
@[simp] theorem memZero_wave (k n : Nat) : (memZero s k n).wave = s.wave := rfl
@[simp] theorem memZero_bg (k n : Nat) : (memZero s k n).bg = s.bg := rfl
@[simp] theorem memZero_acc (k n : Nat) : (memZero s k n).acc = s.acc := rfl
@[simp] theorem memZero_agenda (k n : Nat) : (memZero s k n).agenda = s.agenda := rfl
@[simp] theorem memZero_inputs (k n : Nat) : (memZero s k n).inputs = s.inputs := rfl
@[simp] theorem memZero_pend (k n : Nat) : (memZero s k n).pend = s.pend := rfl
@[simp] theorem memZero_nextId (k n : Nat) : (memZero s k n).nextId = s.nextId := rfl
@[simp] theorem memZero_teams (k n : Nat) : (memZero s k n).teams = s.teams := rfl
@[simp] theorem memZero_grids (k n : Nat) : (memZero s k n).grids = s.grids := rfl
@[simp] theorem memZero_bins (k n : Nat) : (memZero s k n).bins = s.bins := rfl
@[simp] theorem memZero_tags (k n : Nat) : (memZero s k n).tags = s.tags := rfl
@[simp] theorem memZero_dies (k n : Nat) : (memZero s k n).dies = s.dies := rfl
@[simp] theorem memZero_ctxs (k n : Nat) : (memZero s k n).ctxs = s.ctxs := rfl
@[simp] theorem memZero_images (k n : Nat) : (memZero s k n).images = s.images := rfl
@[simp] theorem memZero_queues (k n : Nat) : (memZero s k n).queues = s.queues := rfl
@[simp] theorem memZero_owed (k n : Nat) : (memZero s k n).owed = s.owed := rfl
@[simp] theorem memZero_posted (k n : Nat) : (memZero s k n).posted = s.posted := rfl
@[simp] theorem memZero_copies (k n : Nat) : (memZero s k n).copies = s.copies := rfl
@[simp] theorem memZero_plat (k n : Nat) : (memZero s k n).plat = s.plat := rfl
@[simp] theorem memZero_cycle (k n : Nat) : (memZero s k n).cycle = s.cycle := rfl
@[simp] theorem memZero_clock (k n : Nat) : (memZero s k n).clock = s.clock := rfl
@[simp] theorem memZero_freeCtr (k n : Nat) : (memZero s k n).freeCtr = s.freeCtr := rfl
/-! `memUndef` -/
@[simp] theorem memUndef_wave (k n : Nat) : (memUndef s k n).wave = s.wave := rfl
@[simp] theorem memUndef_bg (k n : Nat) : (memUndef s k n).bg = s.bg := rfl
@[simp] theorem memUndef_acc (k n : Nat) : (memUndef s k n).acc = s.acc := rfl
@[simp] theorem memUndef_agenda (k n : Nat) : (memUndef s k n).agenda = s.agenda := rfl
@[simp] theorem memUndef_inputs (k n : Nat) : (memUndef s k n).inputs = s.inputs := rfl
@[simp] theorem memUndef_pend (k n : Nat) : (memUndef s k n).pend = s.pend := rfl
@[simp] theorem memUndef_nextId (k n : Nat) : (memUndef s k n).nextId = s.nextId := rfl
@[simp] theorem memUndef_teams (k n : Nat) : (memUndef s k n).teams = s.teams := rfl
@[simp] theorem memUndef_grids (k n : Nat) : (memUndef s k n).grids = s.grids := rfl
@[simp] theorem memUndef_bins (k n : Nat) : (memUndef s k n).bins = s.bins := rfl
@[simp] theorem memUndef_tags (k n : Nat) : (memUndef s k n).tags = s.tags := rfl
@[simp] theorem memUndef_dies (k n : Nat) : (memUndef s k n).dies = s.dies := rfl
@[simp] theorem memUndef_ctxs (k n : Nat) : (memUndef s k n).ctxs = s.ctxs := rfl
@[simp] theorem memUndef_images (k n : Nat) : (memUndef s k n).images = s.images := rfl
@[simp] theorem memUndef_queues (k n : Nat) : (memUndef s k n).queues = s.queues := rfl
@[simp] theorem memUndef_owed (k n : Nat) : (memUndef s k n).owed = s.owed := rfl
@[simp] theorem memUndef_posted (k n : Nat) : (memUndef s k n).posted = s.posted := rfl
@[simp] theorem memUndef_copies (k n : Nat) : (memUndef s k n).copies = s.copies := rfl
@[simp] theorem memUndef_plat (k n : Nat) : (memUndef s k n).plat = s.plat := rfl
@[simp] theorem memUndef_cycle (k n : Nat) : (memUndef s k n).cycle = s.cycle := rfl
@[simp] theorem memUndef_clock (k n : Nat) : (memUndef s k n).clock = s.clock := rfl
@[simp] theorem memUndef_freeCtr (k n : Nat) : (memUndef s k n).freeCtr = s.freeCtr := rfl
/-! `wrS` -/
@[simp] theorem wrS_bg (n : Nat) (x : W32) : (wrS s n x).bg = s.bg := by unfold wrS; split <;> rfl
@[simp] theorem wrS_acc (n : Nat) (x : W32) : (wrS s n x).acc = s.acc := by unfold wrS; split <;> rfl
@[simp] theorem wrS_agenda (n : Nat) (x : W32) : (wrS s n x).agenda = s.agenda := by unfold wrS; split <;> rfl
@[simp] theorem wrS_inputs (n : Nat) (x : W32) : (wrS s n x).inputs = s.inputs := by unfold wrS; split <;> rfl
@[simp] theorem wrS_mem (n : Nat) (x : W32) : (wrS s n x).mem = s.mem := by unfold wrS; split <;> rfl
@[simp] theorem wrS_raw (n : Nat) (x : W32) : (wrS s n x).raw = s.raw := by unfold wrS; split <;> rfl
@[simp] theorem wrS_pend (n : Nat) (x : W32) : (wrS s n x).pend = s.pend := by unfold wrS; split <;> rfl
@[simp] theorem wrS_nextId (n : Nat) (x : W32) : (wrS s n x).nextId = s.nextId := by unfold wrS; split <;> rfl
@[simp] theorem wrS_teams (n : Nat) (x : W32) : (wrS s n x).teams = s.teams := by unfold wrS; split <;> rfl
@[simp] theorem wrS_grids (n : Nat) (x : W32) : (wrS s n x).grids = s.grids := by unfold wrS; split <;> rfl
@[simp] theorem wrS_bins (n : Nat) (x : W32) : (wrS s n x).bins = s.bins := by unfold wrS; split <;> rfl
@[simp] theorem wrS_tags (n : Nat) (x : W32) : (wrS s n x).tags = s.tags := by unfold wrS; split <;> rfl
@[simp] theorem wrS_dies (n : Nat) (x : W32) : (wrS s n x).dies = s.dies := by unfold wrS; split <;> rfl
@[simp] theorem wrS_ctxs (n : Nat) (x : W32) : (wrS s n x).ctxs = s.ctxs := by unfold wrS; split <;> rfl
@[simp] theorem wrS_images (n : Nat) (x : W32) : (wrS s n x).images = s.images := by unfold wrS; split <;> rfl
@[simp] theorem wrS_queues (n : Nat) (x : W32) : (wrS s n x).queues = s.queues := by unfold wrS; split <;> rfl
@[simp] theorem wrS_owed (n : Nat) (x : W32) : (wrS s n x).owed = s.owed := by unfold wrS; split <;> rfl
@[simp] theorem wrS_posted (n : Nat) (x : W32) : (wrS s n x).posted = s.posted := by unfold wrS; split <;> rfl
@[simp] theorem wrS_copies (n : Nat) (x : W32) : (wrS s n x).copies = s.copies := by unfold wrS; split <;> rfl
@[simp] theorem wrS_plat (n : Nat) (x : W32) : (wrS s n x).plat = s.plat := by unfold wrS; split <;> rfl
@[simp] theorem wrS_cycle (n : Nat) (x : W32) : (wrS s n x).cycle = s.cycle := by unfold wrS; split <;> rfl
@[simp] theorem wrS_clock (n : Nat) (x : W32) : (wrS s n x).clock = s.clock := by unfold wrS; split <;> rfl
@[simp] theorem wrS_freeCtr (n : Nat) (x : W32) : (wrS s n x).freeCtr = s.freeCtr := by unfold wrS; split <;> rfl
/-! `wrK` -/
@[simp] theorem wrK_bg (n : Nat) (x : Mask) : (wrK s n x).bg = s.bg := by unfold wrK; split <;> rfl
@[simp] theorem wrK_acc (n : Nat) (x : Mask) : (wrK s n x).acc = s.acc := by unfold wrK; split <;> rfl
@[simp] theorem wrK_agenda (n : Nat) (x : Mask) : (wrK s n x).agenda = s.agenda := by unfold wrK; split <;> rfl
@[simp] theorem wrK_inputs (n : Nat) (x : Mask) : (wrK s n x).inputs = s.inputs := by unfold wrK; split <;> rfl
@[simp] theorem wrK_mem (n : Nat) (x : Mask) : (wrK s n x).mem = s.mem := by unfold wrK; split <;> rfl
@[simp] theorem wrK_raw (n : Nat) (x : Mask) : (wrK s n x).raw = s.raw := by unfold wrK; split <;> rfl
@[simp] theorem wrK_pend (n : Nat) (x : Mask) : (wrK s n x).pend = s.pend := by unfold wrK; split <;> rfl
@[simp] theorem wrK_nextId (n : Nat) (x : Mask) : (wrK s n x).nextId = s.nextId := by unfold wrK; split <;> rfl
@[simp] theorem wrK_teams (n : Nat) (x : Mask) : (wrK s n x).teams = s.teams := by unfold wrK; split <;> rfl
@[simp] theorem wrK_grids (n : Nat) (x : Mask) : (wrK s n x).grids = s.grids := by unfold wrK; split <;> rfl
@[simp] theorem wrK_bins (n : Nat) (x : Mask) : (wrK s n x).bins = s.bins := by unfold wrK; split <;> rfl
@[simp] theorem wrK_tags (n : Nat) (x : Mask) : (wrK s n x).tags = s.tags := by unfold wrK; split <;> rfl
@[simp] theorem wrK_dies (n : Nat) (x : Mask) : (wrK s n x).dies = s.dies := by unfold wrK; split <;> rfl
@[simp] theorem wrK_ctxs (n : Nat) (x : Mask) : (wrK s n x).ctxs = s.ctxs := by unfold wrK; split <;> rfl
@[simp] theorem wrK_images (n : Nat) (x : Mask) : (wrK s n x).images = s.images := by unfold wrK; split <;> rfl
@[simp] theorem wrK_queues (n : Nat) (x : Mask) : (wrK s n x).queues = s.queues := by unfold wrK; split <;> rfl
@[simp] theorem wrK_owed (n : Nat) (x : Mask) : (wrK s n x).owed = s.owed := by unfold wrK; split <;> rfl
@[simp] theorem wrK_posted (n : Nat) (x : Mask) : (wrK s n x).posted = s.posted := by unfold wrK; split <;> rfl
@[simp] theorem wrK_copies (n : Nat) (x : Mask) : (wrK s n x).copies = s.copies := by unfold wrK; split <;> rfl
@[simp] theorem wrK_plat (n : Nat) (x : Mask) : (wrK s n x).plat = s.plat := by unfold wrK; split <;> rfl
@[simp] theorem wrK_cycle (n : Nat) (x : Mask) : (wrK s n x).cycle = s.cycle := by unfold wrK; split <;> rfl
@[simp] theorem wrK_clock (n : Nat) (x : Mask) : (wrK s n x).clock = s.clock := by unfold wrK; split <;> rfl
@[simp] theorem wrK_freeCtr (n : Nat) (x : Mask) : (wrK s n x).freeCtr = s.freeCtr := by unfold wrK; split <;> rfl
/-! `wrH` -/
@[simp] theorem wrH_bg (h n : Nat) (x : W32) : (wrH s h n x).bg = s.bg := rfl
@[simp] theorem wrH_acc (h n : Nat) (x : W32) : (wrH s h n x).acc = s.acc := rfl
@[simp] theorem wrH_agenda (h n : Nat) (x : W32) : (wrH s h n x).agenda = s.agenda := rfl
@[simp] theorem wrH_inputs (h n : Nat) (x : W32) : (wrH s h n x).inputs = s.inputs := rfl
@[simp] theorem wrH_mem (h n : Nat) (x : W32) : (wrH s h n x).mem = s.mem := rfl
@[simp] theorem wrH_raw (h n : Nat) (x : W32) : (wrH s h n x).raw = s.raw := rfl
@[simp] theorem wrH_pend (h n : Nat) (x : W32) : (wrH s h n x).pend = s.pend := rfl
@[simp] theorem wrH_nextId (h n : Nat) (x : W32) : (wrH s h n x).nextId = s.nextId := rfl
@[simp] theorem wrH_teams (h n : Nat) (x : W32) : (wrH s h n x).teams = s.teams := rfl
@[simp] theorem wrH_grids (h n : Nat) (x : W32) : (wrH s h n x).grids = s.grids := rfl
@[simp] theorem wrH_bins (h n : Nat) (x : W32) : (wrH s h n x).bins = s.bins := rfl
@[simp] theorem wrH_tags (h n : Nat) (x : W32) : (wrH s h n x).tags = s.tags := rfl
@[simp] theorem wrH_dies (h n : Nat) (x : W32) : (wrH s h n x).dies = s.dies := rfl
@[simp] theorem wrH_ctxs (h n : Nat) (x : W32) : (wrH s h n x).ctxs = s.ctxs := rfl
@[simp] theorem wrH_images (h n : Nat) (x : W32) : (wrH s h n x).images = s.images := rfl
@[simp] theorem wrH_queues (h n : Nat) (x : W32) : (wrH s h n x).queues = s.queues := rfl
@[simp] theorem wrH_owed (h n : Nat) (x : W32) : (wrH s h n x).owed = s.owed := rfl
@[simp] theorem wrH_posted (h n : Nat) (x : W32) : (wrH s h n x).posted = s.posted := rfl
@[simp] theorem wrH_copies (h n : Nat) (x : W32) : (wrH s h n x).copies = s.copies := rfl
@[simp] theorem wrH_plat (h n : Nat) (x : W32) : (wrH s h n x).plat = s.plat := rfl
@[simp] theorem wrH_cycle (h n : Nat) (x : W32) : (wrH s h n x).cycle = s.cycle := rfl
@[simp] theorem wrH_clock (h n : Nat) (x : W32) : (wrH s h n x).clock = s.clock := rfl
@[simp] theorem wrH_freeCtr (h n : Nat) (x : W32) : (wrH s h n x).freeCtr = s.freeCtr := rfl
/-! `issued` -/
@[simp] theorem issued_bg (i : Instr) : (issued i s).bg = s.bg := by unfold issued; split <;> rfl
@[simp] theorem issued_acc (i : Instr) : (issued i s).acc = s.acc := by unfold issued; split <;> rfl
@[simp] theorem issued_agenda (i : Instr) : (issued i s).agenda = s.agenda := by unfold issued; split <;> rfl
@[simp] theorem issued_inputs (i : Instr) : (issued i s).inputs = s.inputs := by unfold issued; split <;> rfl
@[simp] theorem issued_mem (i : Instr) : (issued i s).mem = s.mem := by unfold issued; split <;> rfl
@[simp] theorem issued_raw (i : Instr) : (issued i s).raw = s.raw := by unfold issued; split <;> rfl
@[simp] theorem issued_pend (i : Instr) : (issued i s).pend = s.pend := by unfold issued; split <;> rfl
@[simp] theorem issued_nextId (i : Instr) : (issued i s).nextId = s.nextId := by unfold issued; split <;> rfl
@[simp] theorem issued_teams (i : Instr) : (issued i s).teams = s.teams := by unfold issued; split <;> rfl
@[simp] theorem issued_grids (i : Instr) : (issued i s).grids = s.grids := by unfold issued; split <;> rfl
@[simp] theorem issued_bins (i : Instr) : (issued i s).bins = s.bins := by unfold issued; split <;> rfl
@[simp] theorem issued_tags (i : Instr) : (issued i s).tags = s.tags := by unfold issued; split <;> rfl
@[simp] theorem issued_dies (i : Instr) : (issued i s).dies = s.dies := by unfold issued; split <;> rfl
@[simp] theorem issued_ctxs (i : Instr) : (issued i s).ctxs = s.ctxs := by unfold issued; split <;> rfl
@[simp] theorem issued_images (i : Instr) : (issued i s).images = s.images := by unfold issued; split <;> rfl
@[simp] theorem issued_queues (i : Instr) : (issued i s).queues = s.queues := by unfold issued; split <;> rfl
@[simp] theorem issued_owed (i : Instr) : (issued i s).owed = s.owed := by unfold issued; split <;> rfl
@[simp] theorem issued_posted (i : Instr) : (issued i s).posted = s.posted := by unfold issued; split <;> rfl
@[simp] theorem issued_copies (i : Instr) : (issued i s).copies = s.copies := by unfold issued; split <;> rfl
@[simp] theorem issued_plat (i : Instr) : (issued i s).plat = s.plat := by unfold issued; split <;> rfl
@[simp] theorem issued_cycle (i : Instr) : (issued i s).cycle = s.cycle := by unfold issued; split <;> rfl
@[simp] theorem issued_clock (i : Instr) : (issued i s).clock = s.clock := by unfold issued; split <;> rfl
@[simp] theorem issued_freeCtr (i : Instr) : (issued i s).freeCtr = s.freeCtr := by unfold issued; split <;> rfl
/-! `advance` -/
@[simp] theorem advance_bg (i : Instr) : (advance i s).bg = s.bg := by unfold advance; dsimp only; split <;> rfl
@[simp] theorem advance_acc (i : Instr) : (advance i s).acc = s.acc := by unfold advance; dsimp only; split <;> rfl
@[simp] theorem advance_agenda (i : Instr) : (advance i s).agenda = s.agenda := by unfold advance; dsimp only; split <;> rfl
@[simp] theorem advance_inputs (i : Instr) : (advance i s).inputs = s.inputs := by unfold advance; dsimp only; split <;> rfl
@[simp] theorem advance_mem (i : Instr) : (advance i s).mem = s.mem := by unfold advance; dsimp only; split <;> rfl
@[simp] theorem advance_raw (i : Instr) : (advance i s).raw = s.raw := by unfold advance; dsimp only; split <;> rfl
@[simp] theorem advance_pend (i : Instr) : (advance i s).pend = s.pend := by unfold advance; dsimp only; split <;> rfl
@[simp] theorem advance_nextId (i : Instr) : (advance i s).nextId = s.nextId := by unfold advance; dsimp only; split <;> rfl
@[simp] theorem advance_teams (i : Instr) : (advance i s).teams = s.teams := by unfold advance; dsimp only; split <;> rfl
@[simp] theorem advance_grids (i : Instr) : (advance i s).grids = s.grids := by unfold advance; dsimp only; split <;> rfl
@[simp] theorem advance_bins (i : Instr) : (advance i s).bins = s.bins := by unfold advance; dsimp only; split <;> rfl
@[simp] theorem advance_tags (i : Instr) : (advance i s).tags = s.tags := by unfold advance; dsimp only; split <;> rfl
@[simp] theorem advance_dies (i : Instr) : (advance i s).dies = s.dies := by unfold advance; dsimp only; split <;> rfl
@[simp] theorem advance_ctxs (i : Instr) : (advance i s).ctxs = s.ctxs := by unfold advance; dsimp only; split <;> rfl
@[simp] theorem advance_images (i : Instr) : (advance i s).images = s.images := by unfold advance; dsimp only; split <;> rfl
@[simp] theorem advance_queues (i : Instr) : (advance i s).queues = s.queues := by unfold advance; dsimp only; split <;> rfl
@[simp] theorem advance_owed (i : Instr) : (advance i s).owed = s.owed := by unfold advance; dsimp only; split <;> rfl
@[simp] theorem advance_posted (i : Instr) : (advance i s).posted = s.posted := by unfold advance; dsimp only; split <;> rfl
@[simp] theorem advance_copies (i : Instr) : (advance i s).copies = s.copies := by unfold advance; dsimp only; split <;> rfl
@[simp] theorem advance_plat (i : Instr) : (advance i s).plat = s.plat := by unfold advance; dsimp only; split <;> rfl
@[simp] theorem advance_cycle (i : Instr) : (advance i s).cycle = s.cycle := by unfold advance; dsimp only; split <;> rfl
@[simp] theorem advance_clock (i : Instr) : (advance i s).clock = s.clock := by unfold advance; dsimp only; split <;> rfl
@[simp] theorem advance_freeCtr (i : Instr) : (advance i s).freeCtr = s.freeCtr := by unfold advance; dsimp only; split <;> rfl
/-! `addHazards` -/
@[simp] theorem addHazards_bg (n : Nat) (m : Mask) (r : List Reg) : (addHazards n m r s).bg = s.bg := by unfold addHazards; split <;> rfl
@[simp] theorem addHazards_acc (n : Nat) (m : Mask) (r : List Reg) : (addHazards n m r s).acc = s.acc := by unfold addHazards; split <;> rfl
@[simp] theorem addHazards_agenda (n : Nat) (m : Mask) (r : List Reg) : (addHazards n m r s).agenda = s.agenda := by unfold addHazards; split <;> rfl
@[simp] theorem addHazards_inputs (n : Nat) (m : Mask) (r : List Reg) : (addHazards n m r s).inputs = s.inputs := by unfold addHazards; split <;> rfl
@[simp] theorem addHazards_mem (n : Nat) (m : Mask) (r : List Reg) : (addHazards n m r s).mem = s.mem := by unfold addHazards; split <;> rfl
@[simp] theorem addHazards_raw (n : Nat) (m : Mask) (r : List Reg) : (addHazards n m r s).raw = s.raw := by unfold addHazards; split <;> rfl
@[simp] theorem addHazards_pend (n : Nat) (m : Mask) (r : List Reg) : (addHazards n m r s).pend = s.pend := by unfold addHazards; split <;> rfl
@[simp] theorem addHazards_nextId (n : Nat) (m : Mask) (r : List Reg) : (addHazards n m r s).nextId = s.nextId := by unfold addHazards; split <;> rfl
@[simp] theorem addHazards_teams (n : Nat) (m : Mask) (r : List Reg) : (addHazards n m r s).teams = s.teams := by unfold addHazards; split <;> rfl
@[simp] theorem addHazards_grids (n : Nat) (m : Mask) (r : List Reg) : (addHazards n m r s).grids = s.grids := by unfold addHazards; split <;> rfl
@[simp] theorem addHazards_bins (n : Nat) (m : Mask) (r : List Reg) : (addHazards n m r s).bins = s.bins := by unfold addHazards; split <;> rfl
@[simp] theorem addHazards_tags (n : Nat) (m : Mask) (r : List Reg) : (addHazards n m r s).tags = s.tags := by unfold addHazards; split <;> rfl
@[simp] theorem addHazards_dies (n : Nat) (m : Mask) (r : List Reg) : (addHazards n m r s).dies = s.dies := by unfold addHazards; split <;> rfl
@[simp] theorem addHazards_ctxs (n : Nat) (m : Mask) (r : List Reg) : (addHazards n m r s).ctxs = s.ctxs := by unfold addHazards; split <;> rfl
@[simp] theorem addHazards_images (n : Nat) (m : Mask) (r : List Reg) : (addHazards n m r s).images = s.images := by unfold addHazards; split <;> rfl
@[simp] theorem addHazards_queues (n : Nat) (m : Mask) (r : List Reg) : (addHazards n m r s).queues = s.queues := by unfold addHazards; split <;> rfl
@[simp] theorem addHazards_owed (n : Nat) (m : Mask) (r : List Reg) : (addHazards n m r s).owed = s.owed := by unfold addHazards; split <;> rfl
@[simp] theorem addHazards_posted (n : Nat) (m : Mask) (r : List Reg) : (addHazards n m r s).posted = s.posted := by unfold addHazards; split <;> rfl
@[simp] theorem addHazards_copies (n : Nat) (m : Mask) (r : List Reg) : (addHazards n m r s).copies = s.copies := by unfold addHazards; split <;> rfl
@[simp] theorem addHazards_plat (n : Nat) (m : Mask) (r : List Reg) : (addHazards n m r s).plat = s.plat := by unfold addHazards; split <;> rfl
@[simp] theorem addHazards_cycle (n : Nat) (m : Mask) (r : List Reg) : (addHazards n m r s).cycle = s.cycle := by unfold addHazards; split <;> rfl
@[simp] theorem addHazards_clock (n : Nat) (m : Mask) (r : List Reg) : (addHazards n m r s).clock = s.clock := by unfold addHazards; split <;> rfl
@[simp] theorem addHazards_freeCtr (n : Nat) (m : Mask) (r : List Reg) : (addHazards n m r s).freeCtr = s.freeCtr := by unfold addHazards; split <;> rfl
/-! Registers of a wave. -/
@[simp] theorem Wave.setV_live (n l : Nat) (x : W32) : (w.setV n l x).live = w.live := rfl
@[simp] theorem Wave.setV_uid (n l : Nat) (x : W32) : (w.setV n l x).uid = w.uid := rfl
@[simp] theorem Wave.setV_ctx (n l : Nat) (x : W32) : (w.setV n l x).ctx = w.ctx := rfl
@[simp] theorem Wave.setV_die (n l : Nat) (x : W32) : (w.setV n l x).die = w.die := rfl
@[simp] theorem Wave.setV_core (n l : Nat) (x : W32) : (w.setV n l x).core = w.core := rfl
@[simp] theorem Wave.setV_sub (n l : Nat) (x : W32) : (w.setV n l x).sub = w.sub := rfl
@[simp] theorem Wave.setV_slot (n l : Nat) (x : W32) : (w.setV n l x).slot = w.slot := rfl
@[simp] theorem Wave.setV_team (n l : Nat) (x : W32) : (w.setV n l x).team = w.team := rfl
@[simp] theorem Wave.setV_grid (n l : Nat) (x : W32) : (w.setV n l x).grid = w.grid := rfl
@[simp] theorem Wave.setV_waveId (n l : Nat) (x : W32) : (w.setV n l x).waveId = w.waveId := rfl
@[simp] theorem Wave.setV_width (n l : Nat) (x : W32) : (w.setV n l x).width = w.width := rfl
@[simp] theorem Wave.setV_regs (n l : Nat) (x : W32) : (w.setV n l x).regs = w.regs := rfl
@[simp] theorem Wave.setV_qbase (n l : Nat) (x : W32) : (w.setV n l x).qbase = w.qbase := rfl
@[simp] theorem Wave.setV_rbase (n l : Nat) (x : W32) : (w.setV n l x).rbase = w.rbase := rfl
@[simp] theorem Wave.setV_ver (n l : Nat) (x : W32) : (w.setV n l x).ver = w.ver := rfl
@[simp] theorem Wave.setV_mode (n l : Nat) (x : W32) : (w.setV n l x).mode = w.mode := rfl
@[simp] theorem Wave.setV_s (n l : Nat) (x : W32) : (w.setV n l x).s = w.s := rfl
@[simp] theorem Wave.setV_k (n l : Nat) (x : W32) : (w.setV n l x).k = w.k := rfl
@[simp] theorem Wave.setV_h (n l : Nat) (x : W32) : (w.setV n l x).h = w.h := rfl
@[simp] theorem Wave.setV_vEmpty (n l : Nat) (x : W32) : (w.setV n l x).vEmpty = w.vEmpty := rfl
@[simp] theorem Wave.setV_sEmpty (n l : Nat) (x : W32) : (w.setV n l x).sEmpty = w.sEmpty := rfl
@[simp] theorem Wave.setV_exited (n l : Nat) (x : W32) : (w.setV n l x).exited = w.exited := rfl
@[simp] theorem Wave.setV_seq (n l : Nat) (x : W32) : (w.setV n l x).seq = w.seq := rfl
@[simp] theorem Wave.setV_tCause (n l : Nat) (x : W32) : (w.setV n l x).tCause = w.tCause := rfl
@[simp] theorem Wave.setV_tPc (n l : Nat) (x : W32) : (w.setV n l x).tPc = w.tPc := rfl
@[simp] theorem Wave.setV_tPc2 (n l : Nat) (x : W32) : (w.setV n l x).tPc2 = w.tPc2 := rfl
@[simp] theorem Wave.setV_tWord0 (n l : Nat) (x : W32) : (w.setV n l x).tWord0 = w.tWord0 := rfl
@[simp] theorem Wave.setV_tWord1 (n l : Nat) (x : W32) : (w.setV n l x).tWord1 = w.tWord1 := rfl
@[simp] theorem Wave.setV_tMask (n l : Nat) (x : W32) : (w.setV n l x).tMask = w.tMask := rfl
@[simp] theorem Wave.setV_tAddr (n l : Nat) (x : W32) : (w.setV n l x).tAddr = w.tAddr := rfl
@[simp] theorem Wave.setV_cur (n l : Nat) (x : W32) : (w.setV n l x).cur = w.cur := rfl
@[simp] theorem Wave.setV_others (n l : Nat) (x : W32) : (w.setV n l x).others = w.others := rfl
@[simp] theorem Wave.setV_defs (n l : Nat) (x : W32) : (w.setV n l x).defs = w.defs := rfl
@[simp] theorem Wave.setV_psync (n l : Nat) (x : W32) : (w.setV n l x).psync = w.psync := rfl
@[simp] theorem Wave.setV_released (n l : Nat) (x : W32) : (w.setV n l x).released = w.released := rfl
@[simp] theorem Wave.setV_syncIds (n l : Nat) (x : W32) : (w.setV n l x).syncIds = w.syncIds := rfl
@[simp] theorem Wave.setV_thread (n l : Nat) (x : W32) : (w.setV n l x).thread = w.thread := rfl
@[simp] theorem Wave.setV_streams (n l : Nat) (x : W32) : (w.setV n l x).streams = w.streams := rfl
@[simp] theorem Wave.setV_queues (n l : Nat) (x : W32) : (w.setV n l x).queues = w.queues := rfl
@[simp] theorem Wave.setV_tiles (n l : Nat) (x : W32) : (w.setV n l x).tiles = w.tiles := rfl
@[simp] theorem Wave.setV_mstreams (n l : Nat) (x : W32) : (w.setV n l x).mstreams = w.mstreams := rfl
@[simp] theorem Wave.setV_mcmds (n l : Nat) (x : W32) : (w.setV n l x).mcmds = w.mcmds := rfl
@[simp] theorem Wave.setV_mNan (n l : Nat) (x : W32) : (w.setV n l x).mNan = w.mNan := rfl
@[simp] theorem Wave.setV_mMism (n l : Nat) (x : W32) : (w.setV n l x).mMism = w.mMism := rfl
@[simp] theorem Wave.setV_parked (n l : Nat) (x : W32) : (w.setV n l x).parked = w.parked := rfl
@[simp] theorem Wave.setV_fence (n l : Nat) (x : W32) : (w.setV n l x).fence = w.fence := rfl
@[simp] theorem Wave.setV_marks (n l : Nat) (x : W32) : (w.setV n l x).marks = w.marks := rfl
@[simp] theorem Wave.setV_modeNext (n l : Nat) (x : W32) : (w.setV n l x).modeNext = w.modeNext := rfl
theorem Wave.setV_only (n l : Nat) (x : W32) :
    w.setV n l x = { w with v := (w.setV n l x).v, undef := (w.setV n l x).undef } := rfl
theorem Wave.setVs_only (n : Nat) (xs : List (Nat × W32)) :
    w.setVs n xs = { w with v := (w.setVs n xs).v, undef := (w.setVs n xs).undef } := by
  induction xs generalizing w with
  | nil => rfl
  | cons y t ih => rw [Wave.setVs, ih]; rfl
end

end Sys2Proof.Machine
end

