-- ==== Sys2Proof/Laws/Store.lean ====
section
/-! SUPPORT. Sparse stores and memory: a read after a write, and the canonical form that every write keeps. -/
namespace Sys2Proof.Machine

section
variable {α : Type} {d x : α} {a b lo hi : Nat} {st : Store α}

@[simp] theorem Store.get_nil : Store.get d [] a = d := rfl

theorem Store.get_dropWhile_same (t : Store α) : Store.get d (t.dropWhile fun y => y.1 ≤ a) a = d := by
  induction t with
  | nil => rfl
  | cons y t ih =>
    by_cases h : y.1 ≤ a
    · simpa [List.dropWhile_cons, h] using ih
    · simp [h, Store.get]

theorem Store.get_dropWhile_lt (h : a < b) (t : Store α) :
    Store.get d (t.dropWhile fun y => y.1 ≤ a) b = Store.get d t b := by
  induction t with
  | nil => rfl
  | cons y t ih =>
    by_cases hy : y.1 ≤ a
    · have h1 : ¬ b < y.1 := by omega
      have h2 : b ≠ y.1 := by omega
      simpa [List.dropWhile_cons, hy, Store.get, h1, h2] using ih
    · simp [hy]

theorem Store.get_dropWhile_gt (h : b < a) (t : Store α) :
    Store.get d (t.dropWhile fun y => y.1 ≤ a) b = d := by
  induction t with
  | nil => rfl
  | cons y t ih =>
    by_cases hy : y.1 ≤ a
    · simpa [List.dropWhile_cons, hy] using ih
    · have : b < y.1 := by omega
      simp [hy, Store.get, this]

variable [DecidableEq α]

/-- A read gives what was last written at the key, and what stood there at every other key. -/
theorem Store.get_set (d : α) (st : Store α) (a : Nat) (x : α) (b : Nat) :
    Store.get d (Store.set d st a x) b = if b = a then x else Store.get d st b := by
  induction st with
  | nil =>
    by_cases hx : x = d
    · simp [Store.set, hx]
    · by_cases h1 : b < a
      · have : b ≠ a := by omega
        simp [Store.set, hx, Store.get, h1, this]
      · by_cases h2 : b = a <;> simp [Store.set, hx, Store.get, h1, h2]
  | cons y t ih =>
    obtain ⟨k, v⟩ := y
    by_cases hak : a < k
    · by_cases hx : x = d
      · by_cases h2 : b = a
        · simp [Store.set, hak, hx, Store.get, h2]
        · simp [Store.set, hak, hx, h2]
      · rcases Nat.lt_trichotomy b a with h1 | h1 | h1
        · have h3 : b < k := by omega
          have h4 : b ≠ a := by omega
          simp [Store.set, hak, hx, Store.get, h1, h3, h4]
        · subst h1; simp [Store.set, hak, hx, Store.get]
        · have h3 : ¬ b < a := by omega
          have h4 : b ≠ a := by omega
          simp [Store.set, hak, hx, Store.get, h3, h4]
    · by_cases hk : a = k
      · subst hk
        by_cases hx : x = d
        · subst hx
          rcases Nat.lt_trichotomy b a with h1 | h1 | h1
          · have h4 : b ≠ a := by omega
            simp [Store.set, Store.get, h1, h4, Store.get_dropWhile_gt h1]
          · subst h1; simp [Store.set, Store.get_dropWhile_same]
          · have h3 : ¬ b < a := by omega
            have h4 : b ≠ a := by omega
            simp [Store.set, Store.get, h3, h4, Store.get_dropWhile_lt h1]
        · by_cases h2 : b = a
          · simp [Store.set, hx, Store.get, h2]
          · simp [Store.set, hx, Store.get, h2]
      · have hne : (a == k) = false := by simp [hk]
        by_cases h1 : b < k
        · have h4 : b ≠ a := by omega
          simp [Store.set, hak, hne, Store.get, h1, h4]
        · by_cases h2 : b = k
          · have h4 : ¬ k = a := fun h => hk h.symm
            simp [Store.set, hak, hne, Store.get, h2, h4]
          · simp [Store.set, hak, hne, Store.get, h1, h2, ih]

@[simp] theorem Store.get_set_same : Store.get d (Store.set d st a x) a = x := by simp [Store.get_set]
theorem Store.get_set_other (h : b ≠ a) : Store.get d (Store.set d st a x) b = Store.get d st b := by
  simp [Store.get_set, h]

/-! ### The canonical form -/

theorem Store.wfFrom_mono (h : lo ≤ hi) (w : Store.wfFrom d hi st = true) : Store.wfFrom d lo st = true := by
  cases st with
  | nil => rfl
  | cons y t =>
    obtain ⟨k, v⟩ := y
    simp only [Store.wfFrom, Bool.and_eq_true, decide_eq_true_eq] at w ⊢
    exact ⟨⟨by omega, w.1.2⟩, w.2⟩

theorem Store.wfFrom_dropWhile (w : Store.wfFrom d lo st = true) (a : Nat) :
    Store.wfFrom d lo (st.dropWhile fun y => y.1 ≤ a) = true := by
  induction st generalizing lo with
  | nil => rfl
  | cons y t ih =>
    by_cases h : y.1 ≤ a
    · simp only [List.dropWhile_cons, h, decide_true, if_true]
      simp only [Store.wfFrom, Bool.and_eq_true, decide_eq_true_eq] at w
      exact ih (Store.wfFrom_mono (by omega) w.2)
    · simpa [List.dropWhile_cons, h] using w

theorem Store.wfFrom_set (w : Store.wfFrom d lo st = true) (h : lo ≤ a) :
    Store.wfFrom d lo (Store.set d st a x) = true := by
  induction st generalizing lo with
  | nil => by_cases hx : x = d <;> simp [Store.set, hx, Store.wfFrom, h]
  | cons y t ih =>
    obtain ⟨k, v⟩ := y
    have w0 := w
    simp only [Store.wfFrom, Bool.and_eq_true, decide_eq_true_eq] at w
    obtain ⟨⟨w1, w2⟩, w3⟩ := w
    by_cases hak : a < k
    · by_cases hx : x = d
      · simpa [Store.set, hak, hx] using w0
      · have hk : a + 1 ≤ k := by omega
        simp [Store.set, hak, hx, Store.wfFrom, h, hk, w2, w3]
    · by_cases hk : a = k
      · subst hk
        by_cases hx : x = d
        · simp only [Store.set, Nat.lt_irrefl, if_false, BEq.rfl, if_true, hx]
          exact Store.wfFrom_dropWhile (Store.wfFrom_mono (by omega) w3) a
        · simp [Store.set, hx, Store.wfFrom, h, w3]
      · have hne : (a == k) = false := by simp [hk]
        simp [Store.set, hak, hne, Store.wfFrom, w1, w2, ih w3 (by omega)]

/-- A write keeps the canonical form. -/
theorem Store.wf_set (w : Store.wf d st = true) : Store.wf d (Store.set d st a x) = true := Store.wfFrom_set w (Nat.zero_le _)

theorem Store.wfFrom_filter (p : Nat × α → Bool) (w : Store.wfFrom d lo st = true) : Store.wfFrom d lo (st.filter p) = true := by
  induction st generalizing lo with
  | nil => rfl
  | cons y t ih =>
    obtain ⟨k, v⟩ := y
    simp only [Store.wfFrom, Bool.and_eq_true, decide_eq_true_eq] at w
    by_cases h : p (k, v) = true
    · simp [h, Store.wfFrom, w.1.1, w.1.2, ih w.2]
    · simp only [List.filter_cons, h]
      exact Store.wfFrom_mono (by omega) (ih w.2)
/-- Dropping entries keeps the canonical form. -/
theorem Store.wf_filter (p : Nat × α → Bool) (w : Store.wf d st = true) : Store.wf d (st.filter p) = true :=
  Store.wfFrom_filter p w

/-- Below its first key a store in canonical form reads as unlisted. -/
theorem Store.get_lt (w : Store.wfFrom d lo st = true) (h : a < lo) : Store.get d st a = d := by
  cases st with
  | nil => rfl
  | cons y t =>
    obtain ⟨k, v⟩ := y
    simp only [Store.wfFrom, Bool.and_eq_true, decide_eq_true_eq] at w
    have : a < k := by omega
    simp [Store.get, this]

end

/-! ### Memory -/

variable {m : Memory} {a b n : Nat} {x : Byte}

theorem Memory.read_write (m : Memory) (a : Nat) (x : Byte) (b : Nat) :
    (m.write a x).read b = if b = a then x else m.read b := Store.get_set _ _ _ _ _
@[simp] theorem Memory.read_write_same : (m.write a x).read a = x := by simp [Memory.read_write]
theorem Memory.read_write_other (h : b ≠ a) : (m.write a x).read b = m.read b := by simp [Memory.read_write, h]

theorem Memory.wf_write (w : m.wf = true) : (m.write a x).wf = true := Store.wf_set w
theorem Memory.wf_filter (p : Host.Cell → Bool) (w : m.wf = true) : Memory.wf (m.filter p) = true := Store.wf_filter p w
theorem Memory.wf_nil : Memory.wf [] = true := rfl

theorem Memory.wf_writeN (bs : List Byte) (w : m.wf = true) : (m.writeN a bs).wf = true := by
  induction bs generalizing m a with
  | nil => exact w
  | cons y t ih => exact ih (Memory.wf_write w)

theorem Memory.wf_fill (w : m.wf = true) : (m.fill a n x).wf = true := by
  induction n generalizing m a with
  | zero => exact w
  | succ n ih => exact ih (Memory.wf_write w)

/-- What `writeN` leaves at an address outside the bytes written. -/
theorem Memory.read_writeN_outside (bs : List Byte) (h : b < a ∨ a + bs.length ≤ b) : (m.writeN a bs).read b = m.read b := by
  induction bs generalizing m a with
  | nil => rfl
  | cons y t ih =>
    simp only [List.length_cons] at h
    rw [Memory.writeN, ih (by omega), Memory.read_write_other (by omega)]

/-- What `writeN` leaves at an address it writes. -/
theorem Memory.read_writeN_inside (bs : List Byte) (h : a ≤ b) (h2 : b < a + bs.length) :
    (m.writeN a bs).read b = bs.getD (b - a) 0 := by
  induction bs generalizing m a with
  | nil => simp at h2; omega
  | cons y t ih =>
    simp only [List.length_cons] at h2
    rw [Memory.writeN]
    by_cases hb : b = a
    · subst hb
      rw [Memory.read_writeN_outside t (by omega)]
      simp
    · rw [ih (by omega) (by omega)]
      obtain ⟨c, rfl⟩ : ∃ c, b = a + 1 + c := ⟨b - (a + 1), by omega⟩
      simp [show a + 1 + c - (a + 1) = c by omega, show a + 1 + c - a = c + 1 by omega]

theorem Memory.readN_writeN (bs : List Byte) : (m.writeN a bs).readN a bs.length = bs := by
  suffices h : ∀ (k : Nat) (pre : Memory) (c : Nat) (t : List Byte), k = t.length →
      (∀ j, j < k → pre.read (c + j) = t.getD j 0) → pre.readN c k = t by
    exact h bs.length _ a bs rfl fun j hj => by
      rw [Memory.read_writeN_inside bs (by omega) (by omega)]; simp
  intro k
  induction k with
  | zero => intro pre c t hk _; simp [Memory.readN, List.length_eq_zero_iff.1 hk.symm]
  | succ k ih =>
    intro pre c t hk hr
    cases t with
    | nil => simp at hk
    | cons y t =>
      have h0 := hr 0 (by omega)
      simp at h0
      rw [Memory.readN, h0, ih pre (c + 1) t (by simpa using hk)]
      intro j hj
      have := hr (j + 1) (by omega)
      simpa [Nat.add_assoc, Nat.add_comm 1 j] using this

/-- A run of bytes, byte by byte. -/
theorem Memory.readN_eq (m : Memory) : ∀ a n : Nat, m.readN a n = (List.range n).map fun i => m.read (a + i) := by
  intro a n
  induction n generalizing a with
  | zero => rfl
  | succ n ih =>
    rw [Memory.readN, ih, List.range_succ_eq_map, List.map_cons, List.map_map]
    simp [Function.comp_def, Nat.add_assoc, Nat.add_comm 1]

end Sys2Proof.Machine
end

