-- ==== Sys2Proof/Laws/Mem.lean ====
section
/-! SUPPORT. What a write to memory leaves and what it changes, byte by byte; every operation that writes memory keeps its canonical
form; and what the shared shape of an instruction can answer. -/
namespace Sys2Proof.Machine
open Sys2Proof

variable {s t : State}

/-! ### Operations that leave memory alone -/

@[simp] theorem onPlat_mem (f : Platform → Platform) (s : State) : (onPlat f s).mem = s.mem := rfl
@[simp] theorem releaseMsix_mem : (releaseMsix v s).mem = s.mem := by unfold releaseMsix; split <;> rfl
@[simp] theorem flushMsix_mem : (flushMsix s).mem = s.mem := by unfold flushMsix; split <;> rfl
@[simp] theorem logEvent_mem : (logEvent kind die unit ctx addr s).mem = s.mem := by
  unfold logEvent; rw [releaseMsix_mem]; exact onPlat_mem _ _
@[simp] theorem holdEntry_mem (e : TlbEntry) (h : Option (Nat × Nat)) (s : State) : (holdEntry e h s).mem = s.mem := by
  unfold holdEntry; split <;> rfl
@[simp] theorem dropHeld_mem (f : TlbEntry → Bool) (s : State) : (dropHeld f s).mem = s.mem := rfl
@[simp] theorem tlbFill_mem (want : Want) : (tlbFill die c va want w0 w1 sz s).mem = s.mem := by simp [tlbFill]
@[simp] theorem dropTlb_mem (f : TlbEntry → Bool) (s : State) : (dropTlb f s).mem = s.mem := rfl
@[simp] theorem sendMsix_mem : (sendMsix v s).mem = s.mem := by unfold sendMsix; split <;> simp
@[simp] theorem ringDoorbell_mem (slot off : Nat) (bs : List Byte) : (ringDoorbell slot off bs s).mem = s.mem := by
  unfold ringDoorbell; split <;> rfl
@[simp] theorem raiseSplit_mem (r : Raise) (a b : W64) : (raiseSplit r a b s).mem = s.mem := rfl
@[simp] theorem raiseThread_mem (r : Raise) (a b : W64) : (raiseThread r a b s).mem = s.mem := by
  unfold raiseThread; simp only; split <;> rfl
@[simp] theorem raise_mem (r : Raise) (i : Instr) : (raise r i s).mem = s.mem := by unfold raise; split <;> simp
@[simp] theorem enterFuse_mem : (enterFuse s).mem = s.mem := by unfold enterFuse; split <;> rfl

@[simp] theorem raiseFatal_mem (t : Trap) : (raiseFatal c uid t s).mem = s.mem := by unfold raiseFatal; dsimp only; split <;> simp
@[simp] theorem postError_mem (t : Trap) : (postError die c uid t s).mem = s.mem := by unfold postError; split <;> rfl
@[simp] theorem routeLost_mem : (routeLost die c uid strict m va pc k s).mem = s.mem := by
  unfold routeLost; split
  · rfl
  · dsimp only; split <;> simp

/-! ### Bytes (R102, R275) -/

/-- The undefined byte of a place in a list of runs is that of the first run that has it. -/
theorem rawByte_append (a b : List RawRun) (k : Nat) : rawByte (a ++ b) k = (rawByte a k).or (rawByte b k) := by
  simp only [rawByte, List.find?_append]; cases a.find? _ <;> simp
/-- The undefined byte of one run. -/
theorem rawByte_one (r : RawRun) (k : Nat) : rawByte [r] k =
    if r.lo ≤ k ∧ k < r.lo + r.len then some ((Config.undefWord r.draw 16 (r.src + (k - r.lo))).extractLsb' 0 8) else none := by
  by_cases h : r.lo ≤ k <;> by_cases g : k < r.lo + r.len <;> simp [rawByte, List.find?, h, g]
/-- What a run leaves of itself beside `n` places from `lo` on: nothing at those places, and elsewhere what it was. -/
theorem rawByte_cut_run (lo n : Nat) (r : RawRun) (k : Nat) :
    rawByte (r.cut lo n) k = if lo ≤ k ∧ k < lo + n then none else rawByte [r] k := by
  have e : ∀ a b : Nat, a = b → (Config.undefWord r.draw 16 a).extractLsb' 0 8 = (Config.undefWord r.draw 16 b).extractLsb' 0 8 := by
    intro a b h; rw [h]
  have z : rawByte [] k = none := rfl
  rw [RawRun.cut, rawByte_append, rawByte_one]
  by_cases h1 : r.lo < lo <;> by_cases h2 : lo + n < r.lo + r.len <;> simp only [h1, h2, ↓reduceIte, rawByte_one, z] <;>
    (repeat' split) <;> simp <;> (try omega) <;> exact e _ _ (by omega)
/-- After a cut, the places within it hold no undefined byte, and every other holds what it held. -/
theorem rawByte_cut (lo n : Nat) (rs : List RawRun) (k : Nat) :
    rawByte (rs.flatMap (RawRun.cut lo n)) k = if lo ≤ k ∧ k < lo + n then none else rawByte rs k := by
  induction rs with
  | nil => simp [rawByte]
  | cons r t ih =>
    rw [List.flatMap_cons, rawByte_append, ih, rawByte_cut_run, show r :: t = [r] ++ t from rfl, rawByte_append]
    split <;> simp

/-- A write leaves every byte outside it. -/
theorem memPut_byteAt_outside (bs : List Byte) (h : b < k ∨ k + bs.length ≤ b) : byteAt (memPut s k bs) b = byteAt s b := by
  unfold memPut; split
  · have n : ¬ (k ≤ b ∧ b < k + bs.length) := by omega
    simp only [byteAt, rawByte_cut, n, ↓reduceIte, Memory.read_writeN_outside bs h]
  · rfl
/-- A write to a place that holds bytes is what its bytes then are. -/
theorem memPut_byteAt_inside (bs : List Byte) (p : placeHeld k = true) (h : k ≤ b) (h2 : b < k + bs.length) :
    byteAt (memPut s k bs) b = bs.getD (b - k) 0 := by
  simp only [memPut, p, byteAt, rawByte_cut, h, h2, and_self, ↓reduceIte, Option.getD_none, Memory.read_writeN_inside bs h h2]
/-- A read of plain places from which every dirty line has gone home is what memory holds there. -/
theorem cohRead_plain (n : Nat) (p : Plain s key n) (d : NoDirty s) : cohRead s key n = s.mem.readN key n := by
  obtain ⟨lt, held, runs⟩ := p
  have f (a : Nat) : findDirty s a = none := by
    unfold findDirty
    rw [List.findSome?_eq_none_iff]
    intro t ht
    simp [d t ht]
  have g (i : Nat) (h : i < n) : rawByte s.raw (key + i) = none := by
    unfold rawByte
    rw [Option.map_eq_none_iff, List.find?_eq_none]
    intro r hr
    have := runs r hr
    simp only [Bool.and_eq_true, decide_eq_true_eq]
    omega
  have t4 : tgtOfKey key ≠ 4 := by unfold tgtOfKey; (repeat' split) <;> omega
  have t5 : tgtOfKey key ≠ 5 := by unfold tgtOfKey; (repeat' split) <;> omega
  have u : unreachable s key = false := by simp [unreachable, t4]
  simp only [cohRead, u, t5, held, f, beq_iff_eq, ↓reduceIte, Bool.false_eq_true, Bool.not_true]
  split
  · rfl
  · rw [Memory.readN_eq]
    exact List.map_congr_left fun i h => by rw [g i (by simpa using h)]; rfl

/-! ### Operations that write it -/

theorem memPut_wf (k : Nat) (bs : List Byte) (h : s.mem.wf = true) : (memPut s k bs).mem.wf = true := by
  unfold memPut; split
  · exact Memory.wf_writeN _ h
  · exact h
theorem memZero_wf (lo n : Nat) (h : s.mem.wf = true) : (memZero s lo n).mem.wf = true := Memory.wf_filter _ h
theorem memUndef_wf (lo n : Nat) (h : s.mem.wf = true) : (memUndef s lo n).mem.wf = true := Memory.wf_filter _ h

theorem writeBackLine_wf (h : s.mem.wf = true) : (writeBackLine n d s).mem.wf = true := memPut_wf _ _ h
theorem recallLine_wf (h : s.mem.wf = true) : (recallLine k s).mem.wf = true := by
  unfold recallLine; split
  · exact writeBackLine_wf h
  · exact h
/-- A fold of steps that each keep the canonical form keeps it. -/
theorem foldl_wf {α : Type} (f : State → α → State) (hf : ∀ s x, s.mem.wf = true → (f s x).mem.wf = true) (l : List α) :
    ∀ s : State, s.mem.wf = true → (l.foldl f s).mem.wf = true := by
  induction l with
  | nil => exact fun _ h => h
  | cons x t ih => exact fun s h => ih _ (hf s x h)
/-- The same for a fold over memory alone. -/
theorem foldl_mem_wf {α : Type} (f : Memory → α → Memory) (hf : ∀ m x, m.wf = true → (f m x).wf = true) (l : List α) :
    ∀ m : Memory, m.wf = true → Memory.wf (l.foldl f m) = true := by
  induction l with
  | nil => exact fun _ h => h
  | cons x t ih => exact fun s h => ih _ (hf s x h)
theorem recallBytes_wf (h : s.mem.wf = true) : (recallBytes k n s).mem.wf = true := by
  unfold recallBytes; split
  · exact h
  · exact foldl_wf _ (fun _ _ => recallLine_wf) _ _ h
theorem writeHome_wf (bs : List Byte) (h : s.mem.wf = true) : (writeHome s k bs).mem.wf = true := by
  unfold writeHome; split
  · split <;> simp [h]
  · split
    · exact h
    · exact memPut_wf _ _ (recallBytes_wf h)
theorem writeAs_wf (team : Option Nat) (va k : Nat) (bs : List Byte) (h : s.mem.wf = true) : (writeAs s team va k bs).mem.wf = true := by
  unfold writeAs; split
  · split
    · simp only; split
      · split
        · simpa using h
        · simpa using recallLine_wf h
      · simpa using h
    · exact writeHome_wf _ h
  · exact writeHome_wf _ h
theorem readAs_wf (team : Option Nat) (va k n : Nat) (h : s.mem.wf = true) : (readAs s team va k n).1.mem.wf = true := by
  unfold readAs; dsimp only
  split
  · split
    · exact h
    · exact recallBytes_wf h
  · exact recallBytes_wf h
theorem recallAt_wf (x : Xl) (h : s.mem.wf = true) : (recallAt x n s).mem.wf = true := by
  unfold recallAt; split
  · exact recallBytes_wf h
  · exact h
theorem serveFirst_wf (h : s.mem.wf = true) : (serveFirst s p ak die k w0 sz wr).mem.wf = true := by
  unfold serveFirst
  dsimp only
  refine writeHome_wf _ (writeHome_wf _ (memZero_wf _ _ (recallBytes_wf (writeHome_wf _ ?_))))
  exact recallBytes_wf (recallBytes_wf h)
/-- What the walker's own walks keep, the walks that start on the way keep. -/
theorem walkTo_wf {walk : State → Nat → Want → State} (hw : ∀ s a w, s.mem.wf = true → (walk s a w).mem.wf = true) (tr : State → Nat → Xl)
    (want : Want) (h : s.mem.wf = true) : (walkTo walk tr a n want s).mem.wf = true := recallAt_wf _ (hw _ _ _ h)
theorem poolWalk_wf {walk : State → Nat → Want → State} (hw : ∀ s a w, s.mem.wf = true → (walk s a w).mem.wf = true) (tr : State → Nat → Xl)
    (h : s.mem.wf = true) : (poolWalk walk tr desc die s).mem.wf = true := by
  have g := walkTo_wf (a := poolEa desc die) (n := 32) hw tr { walkRd with wr := true } h
  unfold poolWalk; dsimp only; split
  · split
    · exact hw _ _ _ g
    · exact g
  · exact g
theorem stripeWalk_wf {walk : State → Nat → Want → State} (hw : ∀ s a w, s.mem.wf = true → (walk s a w).mem.wf = true) (tr : State → Nat → Xl)
    (h : s.mem.wf = true) : (stripeWalk walk tr desc w1 off s).mem.wf = true := by
  have g := walkTo_wf (a := stripeSet desc w1) (n := 8) hw tr walkRd h
  unfold stripeWalk; dsimp only; split
  · exact walkTo_wf hw tr walkRd g
  · exact g
theorem walkFill_wf (f : Nat) : ∀ (s : State) (die c va : Nat) (want : Want), s.mem.wf = true →
    (walkFill f s die c va want).mem.wf = true := by
  induction f with
  | zero => exact fun _ _ _ _ _ h => h
  | succ f ih =>
    intro s die c va want h
    have hw : ∀ s a w, s.mem.wf = true → (walkFill f s die c a w).mem.wf = true := fun s a w => ih s die c a w
    unfold walkFill
    dsimp only
    generalize hu : (if inWindow _ _ = true then walkTo _ _ _ _ _ s else _) = u
    have hu : u.mem.wf = true := by
      rw [← hu]; split
      · exact walkTo_wf hw _ _ h
      · exact foldl_wf _ (fun _ _ => recallBytes_wf) _ _ h
    split
    · rename_i w0 w1 sz k _
      split
      · exact hu
      · split
        · split
          · exact hu
          · have hp := poolWalk_wf (desc := ((findCtx s c).map (·.desc)).getD []) (die := die) hw (fun s x => xlate 3 s die c x walkRd) hu
            split
            · split
              · exact hp
              · exact ih _ _ _ _ _ (serveFirst_wf hp)
            · exact hp
        · split
          · exact hu
          · generalize hv : (if (pteTgt w0 == 1) = true then stripeWalk _ _ _ w1 _ u else u) = v
            have hv : v.mem.wf = true := by
              rw [← hv]; split
              · exact stripeWalk_wf hw _ hu
              · exact hu
            split
            · rw [tlbFill_mem]
              generalize (w0 ||| 128#64 ||| _) = w
              split
              · exact hv
              · exact writeHome_wf _ hv
            · exact hv
    · exact hu
/-- All that an engine's access can do on its way to a place: its walks. -/
theorem reach_wf (want : Want) (h : s.mem.wf = true) : (reach s die c va n want).1.mem.wf = true := by
  have hw : (if want.walker = true then walkFill 4 s die c va want else s).mem.wf = true := by
    split
    · exact walkFill_wf _ _ _ _ _ _ h
    · exact h
  unfold reach
  dsimp only
  generalize (if want.walker = true then walkFill 4 s die c va want else s) = u at hw ⊢
  generalize hx : xlate 4 u die c va want = x
  cases x with
  | miss =>
    dsimp only
    generalize xlate 4 (walkFill 4 u die c va want) die c va want = y
    cases y <;> exact walkFill_wf _ _ _ _ _ _ hw
  | ok k => exact hw
  | fault a b g => exact hw
theorem engineRead_wf (want : Want) (h : s.mem.wf = true) : (engineRead s die c va n want).1.mem.wf = true := by
  have := reach_wf (die := die) (c := c) (va := va) (n := n) want h
  unfold engineRead; split <;> rename_i e <;> rw [e] at this
  · exact recallBytes_wf (by simpa using this)
  · exact this
  · exact this
theorem engineWrite_wf (bs : List Byte) (want : Want) (h : s.mem.wf = true) : (engineWrite s die c va bs want).1.mem.wf = true := by
  have := reach_wf (die := die) (c := c) (va := va) (n := bs.length) want h
  unfold engineWrite; split <;> rename_i e <;> rw [e] at this <;> dsimp only at this ⊢
  · exact writeHome_wf bs (by simpa using this)
  · exact this
  · exact this
theorem writeFrame_wf (x : Trap) (h : s.mem.wf = true) : (writeFrame s x).mem.wf = true := by
  unfold writeFrame
  dsimp only
  refine foldl_wf _ ?_ _ _ ?_
  · exact fun _ _ h => memPut_wf _ _ h
  · iterate 8 refine memPut_wf _ _ ?_
    refine foldl_wf _ ?_ _ _ (foldl_wf _ ?_ _ _ h)
    · exact fun _ _ h => memPut_wf _ _ h
    · exact fun _ _ h => foldl_wf _ (fun _ _ h => memPut_wf _ _ h) _ _ h

/-! ### The shared shape of an instruction -/

/-- The translations that an issue holds leave memory alone. -/
theorem holdAll_mem (es : List TlbEntry) (s : State) :
    (es.foldr (fun e s => holdEntry e (some (s.wave.uid, s.wave.cur.idx)) s) s).mem = s.mem := by
  induction es with
  | nil => rfl
  | cons e t ih => simp [ih]
/-- Every way in which an instruction's issue can answer a next state: no issue yet, a forced fuse, a trap before its body, or
what its body says. -/
theorem issueWith_next {full : State → Bool} {lat : Instr → Nat} {body : State → Eff} {ef : State → State}
    (h : issueWith full lat i s body ef = .next t) :
    (issueCheck i s (full s) = .hold ∧ t = s) ∨ (issueCheck i s (full s) = .fuse ∧ t = ef s) ∨ (∃ r, issueCheck i s (full s) = .trap r ∧ t = raise r i s) ∨
    (issueCheck i s (full s) = .go ∧
      ((∃ u, body (issued i s) = .next u ∧
          t = addHazards (lat (expand i)) (writtenLanes s (expand i)) (dstsAt s (expand i)) (advance i u)) ∨
       body (issued i s) = .jump t ∨ (∃ l, body (issued i s) = .hold l ∧ t = { s with agenda := l ++ s.agenda }) ∨
       (∃ a es, body (issued i s) = .walk a es ∧
          t = es.foldr (fun e s => holdEntry e (some (s.wave.uid, s.wave.cur.idx)) s) { s with agenda := a :: s.agenda }) ∨
       (∃ r, body (issued i s) = .trap r ∧ t = raise r i s))) := by
  unfold issueWith at h
  split at h <;> rename_i hc <;> simp only [hc]
  · cases h
  · cases h; simp
  · cases h; simp
  · cases h; simp
  · split at h <;> rename_i hb <;> simp only [hb] <;> cases h <;>
      first | exact .inr (.inr (.inr ⟨trivial, .inr (.inr (.inr (.inl ⟨_, _, rfl, rfl⟩)))⟩)) | simp
/-- An instruction whose body keeps memory canonical keeps it canonical. -/
theorem issue_wf {body : State → Eff} (w : s.mem.wf = true)
    (hn : ∀ u, body (issued i s) = .next u → u.mem.wf = true) (hj : ∀ u, body (issued i s) = .jump u → u.mem.wf = true)
    (h : issue i s body = .next t) : t.mem.wf = true := by
  obtain ⟨-, rfl⟩ | ⟨-, rfl⟩ | ⟨r, -, rfl⟩ | ⟨-, ⟨u, hb, rfl⟩ | hb | ⟨l, -, rfl⟩ | ⟨a, es, -, rfl⟩ | ⟨r, -, rfl⟩⟩ := issueWith_next h <;>
    simp_all [holdAll_mem]

end Sys2Proof.Machine
end

