-- ==== Sys2Proof/Tests/Slice0.lean ====
section
/-! SUPPORT. Tests: words written out from the encoding tables decode to their instructions, each check refuses an ill-formed
term, small steps give results worked out by hand from the rules, and every statement's hypotheses are met somewhere. -/
namespace Sys2Proof.Tests
open Sys2Proof Sys2Proof.Machine
set_option Elab.async false

/-! ### Decoding: words written out from Tables 2.2 to 2.5, 2.7, 2.12 and 2.13 -/

/-- The fields of the worked R-format word (Table 2.14), whose low 56 bits are 0x4900A02E030328. -/
def rA : RF :=
  { stall := 1, ep := 1, k := 2, kn := false, sc := false, d := 10, a := .v 11, b := .s 3, c := .v 12, ty := 10, md := 0 }
/-- Does every opcode of a list, before the worked word's other fields, decode to the constructor beside it? -/
def decodesR (l : List (BitVec 8 × (RF → Instr))) : Bool :=
  l.all fun p => decodeDWords [p.1 ++ 0x4900A02E030328#56] == (.ok (p.2 rA), p.1 ++ 0x4900A02E030328#56, 0, 1)

theorem decode_control : decodesR [(0x00, .nop), (0x04, .ret), (0x06, .fuse), (0x07, .exit), (0x08, .yield), (0x0C, .hret),
    (0x0D, .migrate), (0x10, .bar), (0x11, .bararv), (0x12, .barwt), (0x14, .srd), (0x15, .swr), (0x17, .tlbinv)] = true := by
  decide +kernel
theorem decode_lane : decodesR [(0x20, .vote), (0x21, .kop), (0x22, .kpopc), (0x23, .kffs), (0x24, .rdfirst), (0x25, .shfl),
    (0x26, .perm), (0x27, .compress), (0x28, .expand), (0x29, .reduce), (0x2A, .scan), (0x2B, .segred), (0x2C, .segscan),
    (0x2D, .vrdx), (0x2E, .vwrx)] = true := by decide +kernel
theorem decode_integer : decodesR [(0x40, .iadd), (0x41, .isub), (0x42, .iaddc), (0x43, .imul), (0x44, .imulh), (0x45, .imad),
    (0x46, .imadw), (0x47, .imin), (0x48, .imax), (0x49, .iabs), (0x4A, .iand), (0x4B, .ior), (0x4C, .ixor), (0x4D, .shl),
    (0x4E, .shr), (0x4F, .sra), (0x50, .rot), (0x51, .bfe), (0x52, .bfi), (0x53, .popc), (0x54, .clz), (0x55, .brev),
    (0x56, .icmp), (0x57, .sel), (0x58, .mov), (0x5A, .lea), (0x5B, .icvt), (0x5C, .idiv), (0x5D, .irem)] = true := by decide +kernel
theorem decode_float : decodesR [(0x70, .fadd), (0x71, .fsub), (0x72, .fmul), (0x73, .ffma), (0x74, .fmin), (0x75, .fmax),
    (0x76, .fcmp), (0x77, .fclass), (0x78, .frnd), (0x79, .frcp), (0x7A, .frsq), (0x7B, .fsqrt), (0x7C, .fdiv), (0x7D, .fex2),
    (0x7E, .flg2), (0x7F, .fsin), (0x80, .fcos), (0x81, .fcvt), (0x82, .ftoi), (0x83, .itof), (0x84, .qnt), (0x85, .dqnt),
    (0x86, .pack), (0x87, .unpack)] = true := by decide +kernel
theorem decode_engines : decodesR [(0xAA, .smap), (0xAF, .hset), (0xB0, .hget), (0xC0, .qpush), (0xC1, .qpop), (0xC2, .qstat),
    (0xC6, .psync), (0xC7, .qclose), (0xD5, .twait), (0xD6, .tffr), (0xD7, .tclr), (0xE3, .mzero), (0xE4, .mrd), (0xE5, .mwr),
    (0xE6, .mres), (0xE7, .mstat), (0xF2, .texq)] = true := by decide +kernel

/-- Two-word instructions: the extension word's fields, from bit 63 down, follow Tables 9.7, 10.3, 11.3 to 11.5, 12.2, 13.9,
16.2 and R191, R295, R328, R329, R332, R436, R470. -/
def decodesX (l : List (BitVec 8 × W64 × Instr)) : Bool :=
  l.all fun p => decodeDWords [p.1 ++ 0x4900A02E030328#56, p.2.1] == (.ok p.2.2, p.1 ++ 0x4900A02E030328#56, p.2.1, 2)
theorem decode_two_words : decodesX [
    (0x0E, 0x2, .spawn rA { psz := 2 }), (0x0F, 0x8001, .regroup rA { part := 0x8001 }), (0x16, 0x55, .publish rA { stat := 0x55 }),
    (0xAD, 0x93, .tld rA { km := 9, hnd := 3 }), (0xAE, 0xC5, .tst rA { km := 12, hnd := 5 }),
    (0xC3, 0#44 ++ 2#2 ++ 1#1 ++ 5#3 ++ 1#2 ++ 6#4 ++ 9#4 ++ 4#4,
      .qld rA { ndim := 2, strm := true, sh := 5, mode := 1, mty := 6, qi := 9, qd := 4 }),
    (0xC4, 0#44 ++ 3#2 ++ 0#1 ++ 0#3 ++ 0#2 ++ 2#4 ++ 0#4 ++ 15#4,
      .qst rA { ndim := 3, strm := false, sh := 0, mode := 0, mty := 2, qi := 0, qd := 15 }),
    (0xC5, 0#2 ++ 0x3FFFFFF8#30 ++ 0#16 ++ 0x8003#16, .plaunch rA { off := 0x3FFFFFF8, bind := 0x8003 }),
    (0xD0, 0#2 ++ 18#5 ++ 1#1 ++ 40#7 ++ 0#19 ++ 3#3 ++ 2#2 ++ 0#25,
      .cpy rA { x := { scope := 18, sig := true, sreg := 40 }, esize := 3, ndim := 2 }),
    (0xD1, 0#2 ++ 0#5 ++ 0#1 ++ 0#7 ++ 0#19 ++ 300#9 ++ 0#21,
      .cpyg rA { x := { scope := 0, sig := false, sreg := 0 }, idx := 300 }),
    (0xD2, 0#2 ++ 31#5 ++ 1#1 ++ 6#7 ++ 0#19 ++ 2#3 ++ 1#2 ++ 9#4 ++ 17#5 ++ 0#16,
      .cpyh rA { x := { scope := 31, sig := true, sreg := 6 }, esize := 2, bmode := 1, edge := 9, halo := 17 }),
    (0xD3, 0#2 ++ 0#5 ++ 0#1 ++ 0#7 ++ 0#19 ++ 6#3 ++ 1#2 ++ 2#2 ++ 3#2 ++ 12#4 ++ 1#1 ++ 0#16,
      .cpys rA { x := { scope := 0, sig := false, sreg := 0 }, str := 6, fm := 1, pat := 2, tm := 3, etype := 12, drop := true }),
    (0xD4, 0#2 ++ 1#5 ++ 1#1 ++ 126#7 ++ 0#19 ++ 5#3 ++ 15#4 ++ 0#23,
      .cpyq rA { x := { scope := 1, sig := true, sreg := 126 }, str := 5, rows := 15 })] = true := by decide +kernel
/-- The worked extension fields of the matrix instructions (Table 12.2). -/
def xA : MmaX :=
  { acc := 5, fa := 3, fb := 1, fm := 2, nstep := 33, aty := 12, bty := 1, sdb := true, pat := 2, terms := 3 }
theorem decode_matrix_texture :
    decodesX [
      (0xE0, 0#34 ++ 5#3 ++ 3#2 ++ 1#2 ++ 2#2 ++ 33#6 ++ 12#4 ++ 1#4 ++ 1#1 ++ 2#2 ++ 3#2 ++ 0#2, .mma rA xA),
      (0xE1, 0#34 ++ 5#3 ++ 3#2 ++ 1#2 ++ 2#2 ++ 33#6 ++ 12#4 ++ 1#4 ++ 1#1 ++ 2#2 ++ 3#2 ++ 0#2, .mmas rA xA),
      (0xE2, 0#34 ++ 5#3 ++ 3#2 ++ 1#2 ++ 2#2 ++ 33#6 ++ 12#4 ++ 1#4 ++ 1#1 ++ 2#2 ++ 3#2 ++ 0#2, .mmad rA xA),
      (0xF0, 0#49 ++ 8#7 ++ 0#1 ++ 6#7, .tex rA { img := 6, smp := 8 }),
      (0xF1, 0#49 ++ 127#7 ++ 0#1 ++ 1#7, .texg rA { img := 1, smp := 127 }),
      (0xF3, 0#59 ++ 1#1 ++ 1#2 ++ 2#2, .rast rA { noemit := true, rule := 1, kind := 2 })] = true := by decide +kernel

/-- I format (R31): OP, STALL 2, EP 0, K 3, KN 1, S 0, D 0, A v0, a signed immediate, TYPE 0. -/
def iA : IF := { stall := 2, ep := 0, k := 3, kn := true, sc := false, d := 0, a := .v 0, imm := 0x3FFFFE, ty := 0 }
theorem decode_immediate :
    ([(0x09, Instr.sleep), (0x0A, .bkpt), (0x0B, .trap)] : List (BitVec 8 × (IF → Instr))).all (fun p =>
      (decodeDWords [p.1 ++ 2#2 ++ 0#3 ++ 3#4 ++ 1#1 ++ 0#1 ++ 0#9 ++ 0#10 ++ 0x3FFFFE#22 ++ 0#4]).1 == .ok (p.2 iA)) = true ∧
    (decodeDWords [0x59#8 ++ 1#2 ++ 0#3 ++ 0#4 ++ 0#1 ++ 1#1 ++ 7#9 ++ 0xDEADBEEF#32 ++ 2#4]).1 =
      .ok (.movi { stall := 1, ep := 0, k := 0, kn := false, sc := true, d := 7, imm := 0xDEADBEEF, ty := 2 }) := by decide +kernel
/-- B format (Table 2.3): OP, K 4, KN 1, BMOD 2, OFFSET -3, A s5. -/
def bA : BF := { k := 4, kn := true, bmod := 2, off := 0xFFFFFFFD, a := .s 5 }
theorem decode_branch :
    ([(0x01, Instr.bra), (0x02, .brx), (0x03, .call), (0x05, .rjoin)] : List (BitVec 8 × (BF → Instr))).all (fun p =>
      (decodeDWords [p.1 ++ 0#5 ++ 4#4 ++ 1#1 ++ 2#4 ++ 0xFFFFFFFD#32 ++ 0x205#10]).1 == .ok (p.2 bA)) = true := by decide +kernel
/-- M format (Table 2.4): OP, ORD 1, EP 1, K 6, KN 0, S 1, STRM 1, DATA 9, BASE s-pair 3, SCOPE 18, offset -8, MTYPE 3. -/
def mA : MF :=
  { ord := 1, ep := 1, k := 6, kn := false, sc := true, strm := true, data := 9, base := 0x83, off := 0x90FFF8, mty := 3 }
theorem decode_memory :
    ([(0x13, Instr.waitmem), (0x18, .cwb), (0x19, .cinv), (0xA0, .ld), (0xA1, .st), (0xA5, .xrnd), (0xA6, .compst),
      (0xA7, .expld), (0xA8, .pref), (0xA9, .fence), (0xAB, .sflush), (0xAC, .sinv)] : List (BitVec 8 × (MF → Instr))).all (fun p =>
      (decodeDWords [p.1 ++ 1#2 ++ 1#2 ++ 6#4 ++ 0#1 ++ 1#1 ++ 1#1 ++ 9#9 ++ 0x83#8 ++ 18#5 ++ 0#3 ++ 0xFFF8#16 ++ 3#4]).1
        == .ok (p.2 mA)) = true := by decide +kernel
/-- A format (R34): OP, ORD 3, SCOPE 31, K 1, KN 1, D 20, BASE v-pair 5, DATA v7, CMP imm -1, AOP 8, ATYPE 3. -/
def aA : AF :=
  { ord := 3, scope := 31, k := 1, kn := true, d := 20, base := 5, data := .v 7, cmp := .imm 0x7F, aop := 8, aty := 3 }
theorem decode_atomic :
    ([(0xA2, Instr.atom), (0xA3, .atomn), (0xA4, .xadd)] : List (BitVec 8 × (AF → Instr))).all (fun p =>
      (decodeDWords [p.1 ++ 3#2 ++ 31#5 ++ 1#4 ++ 1#1 ++ 20#9 ++ 5#8 ++ 7#10 ++ 0x2FF#10 ++ 8#4 ++ 3#3]).1
        == .ok (p.2 aA)) = true := by decide +kernel

/-- Compact units (Tables 2.12, 2.13): cOP, K2 1, S 0, D7 3, A7 4, B7 0x7B (the inline -5, or index 123), tag 01. -/
def cA : CF := { k := 1, sc := false, d := 3, a := 4, b := 0x7B }
def uA : CU := { k := 1, sc := false, d := 3, a := 4 }
theorem decode_compact_binary :
    ([(0x02, Instr.iaddI32CompactReg), (0x03, .iaddI32CompactImm), (0x04, .isubI32CompactReg), (0x05, .isubI32CompactImm),
      (0x06, .imulI32CompactReg), (0x07, .imulI32CompactImm), (0x08, .iandI32CompactReg), (0x09, .iandI32CompactImm),
      (0x0A, .iorI32Compact), (0x0B, .ixorI32Compact), (0x0C, .shlI32Compact), (0x0D, .shrN32Compact), (0x0E, .sraI32Compact),
      (0x0F, .iminI32Compact), (0x10, .imaxI32Compact), (0x11, .iaddI64CompactReg), (0x12, .iaddI64CompactImm),
      (0x20, .faddF32Compact), (0x21, .fsubF32Compact), (0x22, .fmulF32CompactReg), (0x23, .fmulF32CompactImm),
      (0x24, .fminF32Compact), (0x25, .fmaxF32Compact), (0x26, .faddF64Compact), (0x27, .fmulF64Compact), (0x28, .faddF16Compact),
      (0x29, .fmulF16Compact)] : List (BitVec 6 × (CF → Instr))).all (fun p =>
      (decodeUnits [p.1 ++ 1#2 ++ 0#1 ++ 3#7 ++ 4#7 ++ 0x7B#7 ++ 1#2]).1 == .ok (p.2 cA)) = true := by decide +kernel
theorem decode_compact_unary :
    ([(0x01, Instr.movI32Compact), (0x13, .popcN32Compact), (0x14, .clzN32Compact), (0x2A, .fsqrtF32Compact),
      (0x34, .srdCompact)] : List (BitVec 6 × (CU → Instr))).all (fun p =>
      (decodeUnits [p.1 ++ 1#2 ++ 0#1 ++ 3#7 ++ 4#7 ++ 0#7 ++ 1#2]).1 == .ok (p.2 uA)) = true := by decide +kernel
theorem decode_compact_bare :
    ([(0x00, Instr.nopCompact), (0x30, .exitCompact 0), (0x31, .retCompact 0), (0x32, .fuseCompact), (0x33, .yieldCompact)]
        : List (BitVec 6 × Instr)).all (fun p => (decodeUnits [p.1 ++ 0#2 ++ 0#22 ++ 1#2]).1 == .ok p.2) = true := by decide +kernel
/-- The bytes in memory of Table 2.14's first two words. -/
theorem decode_bytes : decodeTableWord 64 0x734900A02E030328 = some (.ffma rA) ∧
    wordsOfBytes [0x28, 0x03, 0x03, 0x2E, 0xA0, 0x00, 0x49, 0x73] = [0x734900A02E030328#64] := by decide +kernel
/-- An opcode outside Table 2.7, a set reserved bit of a B-format word, and a two-word instruction cut by its block's end. -/
theorem decode_rejects : (decodeDWords [0x30#8 ++ 0#56]).1 = .bad .unassigned ∧
    (decodeDWords [0x01#8 ++ 1#5 ++ 0#51]).1 = .bad .reserved ∧ (decodeDWords [0xD0#8 ++ 0#56]).1 = .bad .cut := by decide +kernel

/-! ### Ill-formed terms (Table 2.8's RESERVED rows) -/

/-- A plain R-format instruction: v1 from v2 and v3, TYPE i32. -/
def r0 : RF :=
  { stall := 0, ep := 0, k := 0, kn := false, sc := false, d := 1, a := .v 2, b := .v 3, c := .v 0, ty := 2, md := 0 }
/-- A plain load: v4 from the pair s2:s3. -/
def m0 : MF :=
  { ord := 0, ep := 0, k := 0, kn := false, sc := false, strm := false, data := 4, base := 0x81, off := 0, mty := 2 }
/-- A plain atomic: v4 gets the place at s2:s3, to which v6 is added. -/
def a0 : AF :=
  { ord := 0, scope := 0, k := 0, kn := false, d := 4, base := 0x81, data := .v 6, cmp := .v 0, aop := 0, aty := 0 }

theorem wellformed_plain : wellFormed (.iadd r0) = true ∧ wellFormed (.ld m0) = true ∧ wellFormed (.atom a0) = true := by decide
theorem illformed_type : wellFormed (.iadd { r0 with ty := 10 }) = false := by decide
theorem illformed_mod : wellFormed (.iadd { r0 with md := 2 }) = false := by decide
theorem illformed_scalar : wellFormed (.iaddc { r0 with sc := true, a := .s 2, b := .s 3, c := .mask 1 }) = false := by decide
theorem illformed_scalar_source : wellFormed (.iadd { r0 with sc := true }) = false := by decide
theorem illformed_predicate : wellFormed (.iadd { r0 with kn := true }) = false ∧
    wellFormed (.iadd { r0 with sc := true, k := 1, a := .s 2, b := .s 3 }) = false := by decide
theorem illformed_unused_operand : wellFormed (.iadd { r0 with c := .v 1 }) = false := by decide
theorem illformed_operand_class : wellFormed (.iadd { r0 with a := .mask 1 }) = false ∧
    wellFormed (.iadd { r0 with a := .spec 0 }) = false := by decide
theorem illformed_pair : wellFormed (.iadd { r0 with ty := 3 }) = false ∧
    wellFormed (.iadd { r0 with ty := 3, d := 2, a := .v 4, b := .v 6 }) = true := by decide
theorem illformed_empty_policy : wellFormed (.iadd { r0 with ep := 1 }) = false ∧
    wellFormed (.iadd { r0 with ep := 4, a := .imm 1 }) = false := by decide
theorem illformed_stall : wellFormed (.psync { r0 with d := 0, a := .v 0, b := .v 0, ty := 0, stall := 1 }) = false := by decide
theorem illformed_destination : wellFormed (.icmp { r0 with d := 16 }) = false ∧ wellFormed (.qpush r0) = false := by decide
theorem illformed_inline_range :
    wellFormed (.bar { r0 with sc := false, d := 0, a := .imm 16, b := .imm 0, ty := 0 }) = false := by decide
theorem illformed_control : wellFormed (.icmp { r0 with c := .v 511 }) = false ∧ wellFormed (.qpush { r0 with d := 0, b := .v 0, ty := 0, c := .v 16 }) = false := by
  decide
theorem illformed_movi : wellFormed (.movi { stall := 0, ep := 1, k := 0, kn := false, sc := false, d := 1, imm := 0, ty := 2 }) = false := by
  decide
theorem illformed_immediate : wellFormed (.trap { iA with d := 1 }) = false ∧
    wellFormed (.sleep { iA with k := 0, kn := false, imm := 0x200000 }) = false := by decide
theorem illformed_branch : wellFormed (.bra { bA with bmod := 3, a := .v 0 }) = false ∧ wellFormed (.call { bA with bmod := 0, a := .v 3 }) = false ∧
    wellFormed (.rjoin { bA with k := 0, kn := false, bmod := 0, off := 1 }) = false := by decide
theorem illformed_memory : wellFormed (.ld { m0 with ord := 2 }) = false ∧ wellFormed (.ld { m0 with mty := 9 }) = false ∧
    wellFormed (.ld { m0 with base := 0xC0 }) = false ∧ wellFormed (.ld { m0 with ep := 2 }) = false ∧
    wellFormed (.ld { m0 with ord := 1, off := 0x980000 }) = false ∧ wellFormed (.ld { m0 with ord := 1, off := 0x010000 }) = false ∧
    wellFormed (.pref { m0 with strm := true, data := 0 }) = false ∧ wellFormed (.fence { m0 with data := 0 }) = false := by decide
theorem illformed_atomic : wellFormed (.atom { a0 with aop := 1, aty := 4 }) = false ∧ wellFormed (.atom { a0 with scope := 19 }) = false ∧
    wellFormed (.atom { a0 with cmp := .v 1 }) = false ∧ wellFormed (.atomn a0) = false ∧ wellFormed (.xadd { a0 with d := 0 }) = false := by
  decide
theorem illformed_extension :
    wellFormed (.publish { r0 with d := 2, a := .s 4, b := .s 6, ty := 0 } { stat := 3 }) = false ∧
    wellFormed (.qld { r0 with d := 0, a := .s 2, b := .v 0, ty := 0 } { ndim := 0, strm := false, sh := 1, mode := 0, mty := 2, qi := 0, qd := 1 }) = false ∧
    wellFormed (.cpyh { r0 with sc := true, a := .s 2, b := .v 0, ty := 0 }
      { x := { scope := 0, sig := false, sreg := 0 }, esize := 0, bmode := 0, edge := 0, halo := 0 }) = false ∧
    wellFormed (.cpy { r0 with sc := true, a := .s 2, b := .v 0, ty := 0 }
      { x := { scope := 0, sig := false, sreg := 2 }, esize := 0, ndim := 0 }) = false ∧
    wellFormed (.mma { r0 with d := 0, a := .v 0, b := .v 0, ty := 0 } xA) = false ∧
    wellFormed (.rast { r0 with sc := true, a := .s 2, b := .v 0, ty := 0 } { noemit := false, rule := 2, kind := 0 }) = false := by decide

/-! ### Small states and one step -/

/-- A die whose TLB maps the virtual page 0x10 to device memory at 0x20000, readable, writable and executable. -/
def die0 : Die :=
  { id := 0, tlb := [{ lvl := .l2, ctx := 0, vpn := 0x10, sz := 0, w0 := 0x80000000000100DC, w1 := 0x20000 }], ce := 0, ue := 0, sdbres := 0,
    qsat := 0, winflt := 0, raster := [], rr := [] }
/-- The state after reset with one running context, one wave of 64 lanes on a D-core that stands at an instruction, and the mapped page. -/
def at_ (i : Instr) : State :=
  loadWord { State.reset with dies := [die0] } (64 * (encode i).length) ((encode i).foldr (fun w n => w.toNat + 2 ^ 64 * n) 0)
/-- The same with the wave's access thread executing. -/
def inThread (i : Instr) : State :=
  let s := at_ i
  let th : Thread :=
    { pc := s.wave.cur.pc, regs := [], empty := [], psync := 0, blk := s.wave.cur.blk,
      fault := none, atSync := false, done := false, issued := 0, clockHi := none }
  { s with acc := true, wave := { s.wave with thread := some th } }
/-- Sets v-register `n` of lane `l`, s-register `n`, mask register `n`, the split's lanes, the memory. -/
def v (n l : Nat) (x : W32) (s : State) : State := { s with wave := { s.wave with v := Store.set 0 s.wave.v (64 * n + l) x } }
def sr (n : Nat) (x : W32) (s : State) : State := { s with wave := { s.wave with s := Store.set 0 s.wave.s n x } }
def km (n : Nat) (x : W64) (s : State) : State := { s with wave := { s.wave with k := Store.set 0 s.wave.k n x } }
def lanes (m : Mask) (s : State) : State := { s with wave := { s.wave with cur := { s.wave.cur with mask := m } } }
def mem (a : Nat) (b : List Byte) (s : State) : State := { s with mem := s.mem.writeN a b }
/-- The state that an instruction's execution answers. -/
def run (i : Instr) (s : State) : State := match exec i s with | .next t => t | _ => s
/-- An R-format instruction of one source, of two. -/
def un (ty : BitVec 4) (md : BitVec 2) (b : Operand) : RF := { r0 with b := b, ty := ty, md := md }

theorem test_iadd_wraps : vAt (run (.iadd r0) (v 2 5 0xFFFFFFFF (v 3 5 2 (at_ (.iadd r0))))) 1 5 = 1 := by decide +kernel
theorem test_iadd_saturates :
    vAt (run (.iadd { r0 with md := 1 }) (v 2 0 0x7FFFFFFF (v 3 0 1 (at_ (.iadd { r0 with md := 1 }))))) 1 0 = 0x7FFFFFFF := by
  decide +kernel
theorem test_isub_n32_saturates :
    vAt (run (.isub { r0 with ty := 6, md := 1 }) (v 1 0 9 (v 2 0 3 (v 3 0 4 (at_ (.isub { r0 with ty := 6, md := 1 })))))) 1 0 = 0 := by
  decide +kernel
theorem test_iaddc_carries : let i := Instr.iaddc { r0 with c := .mask 3, ty := 6 }
    let t := run i (km 3 2#64 (v 2 1 0xFFFFFFF0 (v 3 1 8 (v 2 0 0xFFFFFFFF (v 3 0 5 (at_ i))))))
    vAt t 1 1 = 0xFFFFFFF9 ∧ vAt t 1 0 = 4 ∧ kAt t 3 1 = false ∧ kAt t 3 0 = true := by decide +kernel
theorem test_imulh : vAt (run (.imulh r0) (v 2 0 0x80000000 (v 3 0 4 (at_ (.imulh r0))))) 1 0 = 0xFFFFFFFE := by decide +kernel
theorem test_iabs_most_negative : vAt (run (.iabs { r0 with b := .v 0 }) (v 2 0 0x80000000 (at_ (.iabs { r0 with b := .v 0 })))) 1 0
    = 0x80000000 := by decide +kernel
theorem test_sra_sign : vAt (run (.sra { r0 with b := .imm 4 }) (v 2 0 0xFFFFFF00 (at_ (.sra { r0 with b := .imm 4 })))) 1 0 = 0xFFFFFFF0 := by
  decide +kernel
theorem test_popc_clz : vAt (run (.popc (un 6 0 (.v 0))) (v 2 0 0xF0 (at_ (.popc (un 6 0 (.v 0)))))) 1 0 = 4 ∧
    vAt (run (.clz (un 6 0 (.v 0))) (v 2 0 0xF0 (at_ (.clz (un 6 0 (.v 0)))))) 1 0 = 24 := by decide +kernel
/-- R228's example: the f64 constant 1.0 in s8 and s9. -/
theorem test_movi_f64 :
    let i := Instr.movi { stall := 0, ep := 0, k := 0, kn := false, sc := true, d := 8, imm := 0x3FF00000, ty := 11 }
    encode i = [0x59002083FF00000B#64] ∧ rdS (run i (at_ i)) 9 = 0x3FF00000 ∧ rdS (run i (at_ i)) 8 = 0 := by decide +kernel
/-- Predication: lane 1 keeps its destination; and a masked-off compare keeps its mask bit. -/
theorem test_predicate : let i := Instr.mov { r0 with k := 2, b := .v 0 }
    let t := run i (km 2 1#64 (v 2 0 7 (v 2 1 8 (v 1 1 9 (at_ i)))))
    vAt t 1 0 = 7 ∧ vAt t 1 1 = 9 := by decide +kernel
theorem test_icmp_signed : let i := Instr.icmp { r0 with d := 4, c := .v 2 }
    kAt (run i (v 2 0 0xFFFFFFFF (v 3 0 1 (at_ i)))) 4 0 = true := by decide +kernel
theorem test_k0_discards : let i := Instr.icmp { r0 with d := 0, c := .v 0 }
    (run i (at_ i)).wave.k = [] := by decide +kernel

/-- The conversions at their edges (chapter 8): source, C, result. -/
def conv (i : Instr) (a c : W32) : W32 := vAt (run i (v 1 0 0x55 (v 2 0 a (v 3 0 c (at_ i))))) 1 0
theorem test_fcvt_edges :
    conv (.fcvt (un 8 0 (.v 10))) 0x477FF000 0 = 0x7C00 ∧ conv (.fcvt (un 8 1 (.v 10))) 0x477FF000 0 = 0x7BFF ∧
    conv (.fcvt (un 12 0 (.v 10))) 0x7F800000 0 = 0x7E ∧ conv (.fcvt (un 12 0 (.v 10))) 0x7FC00000 0 = 0x7F ∧
    conv (.fcvt (un 14 0 (.v 10))) 0x40200000 0 = 4 := by decide +kernel
theorem test_fcvt_stochastic :
    conv (.fcvt { un 9 0 (.v 26) with c := .v 3 }) 0x3F806000 0xA0000000 = 0x3F81 ∧
    conv (.fcvt { un 9 0 (.v 26) with c := .v 3 }) 0x3F806000 0x9FFFFFFF = 0x3F80 := by decide +kernel
theorem test_ftoi_edges :
    conv (.ftoi (un 2 0 (.v 10))) 0x4F000000 0 = 0x7FFFFFFF ∧ conv (.ftoi (un 2 0 (.v 10))) 0xC0200000 0 = 0xFFFFFFFE ∧
    conv (.ftoi (un 2 2 (.v 10))) 0xC0200000 0 = 0xFFFFFFFD ∧ conv (.ftoi (un 4 0 (.v 10))) 0xBF800000 0 = 0 ∧
    conv (.ftoi (un 2 0 (.v 10))) 0x7FC00000 0 = 0 := by decide +kernel
theorem test_itof_edges : conv (.itof (un 10 0 (.v 2))) 0x01000001 0 = 0x4B800000 ∧ conv (.itof (un 10 3 (.v 2))) 0x01000001 0 = 0x4B800001 := by
  decide +kernel
theorem test_fadd_infinities : conv (.fsub { r0 with ty := 10 }) 0x7F800000 0x7F800000 = 0x7FC00000 := by decide +kernel
theorem test_fmin_zero : conv (.fmin { r0 with ty := 10 }) 0 0x80000000 = 0x80000000 ∧
    conv (.fmax { r0 with ty := 10 }) 0x7FC00000 0x3F800000 = 0x3F800000 := by decide +kernel
theorem test_fsqrt_fdiv : conv (.fsqrt (un 10 0 (.v 0))) 0x40800000 0 = 0x40000000 ∧
    conv (.fdiv { r0 with ty := 10 }) 0x3F800000 0x40400000 = 0x3EAAAAAB := by decide +kernel
/-- The packing example of chapter 8. -/
theorem test_pack_unpack : let i := Instr.pack { un 12 0 (.v 0) with d := 20, a := .v 16 }
    let j := Instr.unpack { un 12 0 (.v 0) with d := 24, a := .v 20 }
    let s := v 16 0 0x3F800000 (v 17 0 0xC0000000 (v 18 0 0x43FA0000 (v 19 0 0x7FC00000 (at_ i))))
    let t := v 20 0 0x7F7EC038 (at_ j)
    encode i = [0x8600014040000030#64] ∧ vAt (run i s) 20 0 = 0x7F7EC038 ∧
    (List.range 4).map (fun n => vAt (run j t) (24 + n) 0) = [0x3F800000, 0xC0000000, 0x43E00000, 0x7FC00000] := by decide +kernel
/-- The quantiser example of chapters 3 and 8, in a wave whose first group alone holds values. -/
theorem test_qnt : let i := Instr.qnt { r0 with d := 40, a := .v 8, b := .v 0, c := .v 2, ty := 10 }
    let t := run i (lanes 0xFFFF (v 8 0 0x43FA0000 (v 9 0 0x40400000 (v 10 0 0xBDCCCCCD (at_ i)))))
    encode i = [0x84000280200000A8#64] ∧ vAt t 40 0 = 0x3C780A01 ∧ vAt t 40 1 = 0x95 ∧ vAt t 40 2 = 0 := by decide +kernel
/-- The exact-sum cell's three additions in two orders (chapter 3). -/
theorem test_exact_sum :
    let add (x : Nat) (c : List Byte) : List Byte := cellAdd c (decodeF f32 x)
    let z : List Byte := List.replicate 64 0
    add 0xBF800000 (add 1 (add 0x3F800000 z)) = add 1 (add 0x3F800000 (add 0xBF800000 z)) ∧
    cellRound f32 (add 0xBF800000 (add 1 (add 0x3F800000 z))) = 1 ∧ (add 0x3F800000 z).getD 18 0 = 0x20 ∧
    (add 0xBF800000 z).getD 59 0 = 0xFF := by decide +kernel

/-! ### Lanes -/

/-- The segmented sum of Table 6.4. -/
theorem test_segred : let i := Instr.segred { r0 with k := 1, d := 8, a := .v 4, b := .mask 2, ty := 10 }
    let s := km 1 0xEF (km 2 0x49 (lanes 0xFF (at_ i)))
    let s := v 4 0 0x4B800000 (v 4 1 0x3F800000 (v 4 2 0x3F800000 (v 4 3 0x3F800000 (v 4 4 0x42C60000
      (v 4 5 0x4B800000 (v 4 6 0x3F000000 (v 4 7 0x3E800000 (v 8 4 0x11 s))))))))
    encode i = [0x2B00808013820028#64] ∧ (List.range 8).map (vAt (run i s) 8) =
      [0x4B800000, 0x4B800000, 0x4B800000, 0x4B800000, 0x11, 0x4B800000, 0x3F400000, 0x3F400000] := by decide +kernel
theorem test_vote_eq : let i := Instr.vote { r0 with d := 5, b := .v 0, md := 3 }
    kAt (run i (lanes 3 (v 2 0 7 (v 2 1 7 (at_ i))))) 5 63 = true ∧ kAt (run i (lanes 3 (v 2 0 7 (at_ i)))) 5 0 = false := by
  decide +kernel
theorem test_kop_andn : let i := Instr.kop { r0 with d := 5, a := .mask 1, b := .mask 2, ty := 3 }
    kAt (run i (km 1 6 (km 2 2 (at_ i)))) 5 2 = true ∧ kAt (run i (km 1 6 (km 2 2 (at_ i)))) 5 1 = false := by decide +kernel
theorem test_compress : let i := Instr.compress { r0 with b := .mask 2 }
    vAt (run i (km 2 0xA (lanes 0xF (v 2 1 11 (v 2 3 13 (at_ i)))))) 1 0 = 11 ∧
    vAt (run i (km 2 0xA (lanes 0xF (v 2 1 11 (v 2 3 13 (at_ i)))))) 1 1 = 13 := by decide +kernel
theorem test_vwrx_range : let i := Instr.vwrx { r0 with d := 0, a := .s 4, b := .v 3 }
    (run i (sr 4 600 (at_ i))).wave.cur.state = .trapq ∧ vAt (run i (sr 4 9 (v 3 2 5 (at_ i)))) 9 2 = 5 := by decide +kernel

/-! ### Control -/

/-- The loop branch of Table 5.5 at cycle 200, with the encoding of chapter 6: entry 0 keeps the fall-through set. -/
theorem test_bra_diverges : let i := Instr.bra { k := 3, kn := false, bmod := 0, off := 0xFFFFFFD8, a := .v 0 }
    let s := at_ i
    let s : State := { s with wave := { s.wave with cur := { s.wave.cur with
      mask := 0xFFFF, lf := 5, blk := s.wave.cur.blk.map fun b => { b with rejoin := some 0x2000 } } } }
    let t := run i (km 3 0xFFF0 s)
    encode i = [0x010183FFFFFF6000#64] ∧ t.wave.cur.mask = 0x000F ∧ t.wave.cur.lf = 0x80200001 ∧
    t.wave.cur.rj.map (fun r => (r.addr, r.mask)) = [(0x2000, 0xFFFF)] ∧
    t.wave.others.map (fun x => (x.idx, x.mask, x.lf, x.pc)) = [(1, 0xFFF0, 0xC0300003, s.wave.cur.pc - 40)] := by decide +kernel
/-- Table 6.3: a RET to three targets, T2 in quad 0, T1 in quad 1 and T3 in quads 2 and 3. -/
theorem test_ret_three_targets : let i := Instr.ret { r0 with d := 0, a := .v 2, b := .v 0, ty := 0 }
    let s := at_ i
    let s : State := { s with wave := { s.wave with cur := { s.wave.cur with mask := 0xFFFF, lf := 6 } } }
    let s := (List.range 16).foldl (fun s l => v 2 l (if l < 4 then 200 else if l < 8 then 100 else 300) s) s
    let t := run i s
    (t.wave.cur.mask, t.wave.cur.pc, t.wave.cur.lf) = (0x00F0, 100, 3) ∧
    (∀ y ∈ [(1, 0x000F, 200, 0x40100001), (2, 0xFF00, 300, 0xA0280003)], y ∈ t.wave.others.map fun x => (x.idx, x.mask, x.pc, x.lf)) := by
  decide +kernel
theorem test_exit_lane : let i := Instr.exit { r0 with d := 0, a := .v 0, b := .v 0, ty := 0, k := 1 }
    let t := run i (km 1 2 (at_ i))
    t.wave.exited = 2 ∧ t.wave.cur.mask = ~~~2#64 := by decide +kernel
theorem test_trap_soft : let i := Instr.trap { iA with stall := 0, k := 0, kn := false, imm := 0x345 }
    (run i (at_ i)).wave.cur.trap.map (fun t => (t.cause, t.sub, t.mask, t.pc)) = some (6, 0x45, 0xFFFFFFFFFFFFFFFF, 0x1001) := by
  decide +kernel
theorem test_idiv_unimplemented : (run (.idiv r0) (at_ (.idiv r0))).wave.cur.trap.map (fun t => (t.cause, t.sub, t.word0)) =
    some (1, 3, 0x5C00001008030008) := by decide +kernel
theorem test_sleep_counts : let i := Instr.sleep { iA with stall := 0, k := 0, kn := false, imm := 9 }
    ((run i (at_ i)).wave.cur.state, (run i (at_ i)).wave.cur.sleep) = (.sleep, 9) := by decide +kernel
theorem test_srd_laneid : let i := Instr.srd { r0 with a := .spec 0, b := .v 0, ty := 0 }
    vAt (run i (at_ i)) 1 37 = 37 := by decide +kernel
/-- SWR of MODE acts from the next sub-core cycle on (R194). -/
theorem test_swr_mode_keeps_read_only : let i := Instr.swr { r0 with sc := true, d := 0, a := .spec 0x0C, b := .s 3, ty := 0 }
    let t := run i (sr 3 0xFFFFFFFF (at_ i))
    t.wave.mode = (at_ i).wave.mode ∧ (tick t).wave.mode = 0xFFF0001C := by decide +kernel

/-! ### Memory -/

/-- The acquire load of chapter 4, and the loads and the store of chapter 9, as encoded there. -/
theorem test_memory_encodings :
    encode (.ld { m0 with ord := 1, data := 1, off := 0x200008 }) = [0xA040001812000082#64] ∧
    encode (.ld { m0 with data := 12, base := 5, mty := 1 }) = [0xA00000C050000001#64] ∧
    encode (.st { m0 with data := 12, base := 7, mty := 1 }) = [0xA10000C070000001#64] ∧
    encode (.atomn { a0 with scope := 2, d := 0, base := 2, data := .v 6, aop := 2, aty := 3 }) = [0xA3040000100C0013#64] := by
  decide +kernel
/-- A scalar load of a signed halfword at 0x10002, issued and then performed. -/
theorem test_load : let i := Instr.ld { m0 with sc := true, mty := 6, off := 2 }
    let s := mem 0x20002 [0xFE, 0xFF] (sr 2 0x10000 (at_ i))
    let t := run i s
    let u := run (.loadReply s.nextId 0) t
    t.pend.map (fun p => (p.dst, p.ndst, p.lanes.map fun a => (a.va, a.key))) = [(4, 1, [(0x10002, 0x20002)])] ∧
    t.wave.sEmpty = [4] ∧ rdS u 4 = 0xFFFFFFFE ∧ u.wave.sEmpty = [] ∧ u.pend = [] := by decide +kernel
theorem test_store_ascending_lanes : let i := Instr.st { m0 with data := 4 }
    let s := lanes 3 (sr 2 0x10000 (v 4 0 0x11111111 (v 4 1 0x22222222 (at_ i))))
    let t := run (.storePerformed s.nextId) (run i s)
    t.mem.readN 0x20000 4 = [0x22, 0x22, 0x22, 0x22] := by decide +kernel
theorem test_atomic_add_returns_old : let i := Instr.atom a0
    let s := lanes 3 (sr 2 0x10000 (v 6 0 5 (v 6 1 7 (mem 0x20000 [100] (at_ i)))))
    let t := run (.atomicAtHome s.nextId) (run i s)
    vAt t 4 0 = 100 ∧ vAt t 4 1 = 105 ∧ t.mem.readN 0x20000 4 = [112, 0, 0, 0] := by decide +kernel
theorem test_load_misaligned : let i := Instr.ld { m0 with off := 2 }
    (run i (sr 2 0x10000 (lanes 1 (at_ i)))).wave.cur.trap.map (fun t => (t.cause, t.sub, t.mask, t.addr)) =
      some (7, 0, 1, 0x10002) := by decide +kernel
theorem test_load_unmapped : let i := Instr.ld m0
    (run i (sr 2 0x20000 (lanes 1 (at_ i)))).wave.cur.trap.map (fun t => (t.cause, t.sub, t.addr)) = some (0x0A, 1, 0x20000) := by
  decide +kernel
theorem test_hset_hget : let i := Instr.hset { r0 with sc := true, d := 0, a := .imm 0x21, b := .s 3, ty := 0 }
    let t := run i (sr 3 0x77 (at_ i))
    rdH t 1 2 = 0x77 := by decide +kernel

/-! ### Engines -/

/-- The Porter's encodings of chapter 10. -/
theorem test_porter_encodings :
    encode (.qpop { r0 with d := 20, a := .v 0, b := .mask 3, c := .v 1, ty := 0 }) = [0xC100014003830040#64] ∧
    encode (.plaunch { r0 with d := 0, a := .v 0, b := .v 0, ty := 0 } { off := 23, bind := 7 }) = [0xC500000000000000#64, 0x0000001700000007#64] ∧
    encode (.qld { r0 with d := 0, a := .s 8, b := .imm 0, ty := 0 } { ndim := 0, strm := false, sh := 2, mode := 1, mty := 2, qi := 0, qd := 2 })
      = [0xC300000822800000#64, 0x0000000000009202#64] := by decide +kernel
theorem test_rjoin_encoding : encode (.rjoin { k := 0, kn := false, bmod := 0, off := 0, a := .imm 0x7F }) = [0x05000000000002FF#64] := by
  decide +kernel

/-! ### The statements' hypotheses are met: decoding, issue, arithmetic, lanes, control

One theorem for each statement's clause: a state and operands for which every premise holds together. -/

theorem meets_core_round_trip : encode (.iadd r0) ≠ [] ∧ formOk (.iadd r0) = true := by decide +kernel
theorem meets_unit_round_trip : let i := Instr.ffma { rA with stall := 0 }
    encodeUnits i ≠ [] ∧ formOk i = true ∧
    ∀ w, (encode i).head? = some w → unpackFirst (wordFmtOf (opOf w)) (packFirst (wordFmtOf (opOf w)) w) = w := by
  refine ⟨by decide +kernel, by decide +kernel, ?_⟩
  intro w h
  have : w = (encode (.ffma { rA with stall := 0 })).headD 0 := by
    revert h; cases encode (Instr.ffma { rA with stall := 0 }) <;> simp_all
  subst this; decide +kernel
/-- The block that the executing split stands in. -/
def blkOf (i : Instr) : Blk := ((at_ i).wave.cur.blk).getD { hdr := 0, len := 0, live := 0, rejoin := none, eqv := false, yh := false, words := [] }
/-- `issuesFrom i` is the state that a step of `at_ i` executes in. -/
def focused (s : State) : State := { focusSplit 0 0 { s with agenda := [] } with acc := false }
theorem meets_step_split : let i := Instr.iadd r0
    IssuesFrom (at_ i) (focused (at_ i)) ∧ (focused (at_ i)).wave.cur.blk = some (blkOf i) ∧ bpHit (focused (at_ i)) = false ∧
    (blkOf i).at (focused (at_ i)).wave.isL (focused (at_ i)).wave.cur.pc = (.ok i, 0x4000001008030008, 0, 1) := by
  refine ⟨⟨0, 0, 0, 0, [], (at_ (.iadd r0)).wave, ?_, ?_, ?_⟩, ?_, ?_, ?_⟩ <;> decide +kernel
theorem meets_step_thread : let i := Instr.yield { r0 with d := 0, a := .v 0, b := .v 0, ty := 0 }
    let s := { inThread i with agenda := [.porter 0], acc := false }
    let u := { focusWave 0 { s with agenda := [] } with acc := true }
    IssuesThread s u ∧ ((u.wave.thread.bind (·.blk)).map fun b => (b.at false 0x1001).1) = some (.ok i) ∧
      u.wave.thread.map (·.pc) = some 0x1001 := by
  refine ⟨⟨0, [], ?_, ?_⟩, ?_, ?_⟩ <;> decide +kernel
theorem meets_step_event : ∃ s : State, s.agenda = [.event .powerLoss] := ⟨{ State.reset with agenda := [.event .powerLoss] }, rfl⟩
theorem meets_undecodable :
    let s := loadWord { State.reset with dies := [die0] } 64 0x3000000000000000
    IssuesFrom s (focused s) ∧ splitRuns (focused s) = true ∧
    ((focused s).wave.cur.blk.map fun b => b.at false (focused s).wave.cur.pc) = some (.bad .unassigned, 0x3000000000000000, 0, 1) := by
  refine ⟨⟨0, 0, 0, 0, [], (loadWord { State.reset with dies := [die0] } 64 0x3000000000000000).wave, ?_, ?_, ?_⟩, ?_, ?_⟩ <;> decide +kernel
/-- A branch whose reserved bits are not zero, under predicate k2: TRAPMASK is its active set. -/
theorem meets_undecodable_known :
    let s := km 2 6 (loadWord { State.reset with dies := [die0] } 64 0x0181000000000000)
    IssuesFrom s (focused s) ∧ splitRuns (focused s) = true ∧
    ((focused s).wave.cur.blk.map fun b => b.at false (focused s).wave.cur.pc) = some (.bad .reserved, 0x0181000000000000, 0, 1) ∧
    (parseWords (opOf 0x0181000000000000) 0x0181000000000000 0).map (fun i => ((predOf (expand i)).2.2, activeOf (focused s) (predOf (expand i)).1 (predOf (expand i)).2.1))
      = some (false, 6) := by
  refine ⟨⟨0, 0, 0, 0, [], (km 2 6 (loadWord { State.reset with dies := [die0] } 64 0x0181000000000000)).wave, ?_, ?_, ?_⟩, ?_, ?_, ?_⟩ <;> decide +kernel
/-- A block of two NOPs at the mapped page, whose CHK is worked out by hand from R26's polynomial. -/
def header2 : W64 := 0xB#4 ++ 2#8 ++ 0#30 ++ 0#6 ++ crc16 (bytesOf 16 0)
def blockHome (s : State) : State :=
  { (mem 0x20000 (bytesOf 8 header2.toNat) s) with wave := { s.wave with cur := { s.wave.cur with pc := 0x2000, blk := none } } }
theorem meets_fetch : let s := blockHome (at_ (.iadd r0))
    s.wave.isL = false ∧ ∃ b, (fetchBlock s false false 0x2000).2 = .ok b :=
  ⟨by decide +kernel, (match (fetchBlock (blockHome (at_ (.iadd r0))) false false 0x2000).2 with | .ok b => b | _ => blkOf (.iadd r0)), by decide +kernel⟩
/-- The same block for an L-core: the two units of its header, tagged 00, and two more. -/
def headerL : W64 := 0xB#4 ++ 2#8 ++ 0#30 ++ 0#6 ++ crc16 (bytesOf 8 0)
def blockHomeL (s : State) : State :=
  { (mem 0x20000 ((unitsOf 0 0 (packHeader headerL)).flatMap fun u => bytesOf 4 u.toNat) s) with
    wave := { s.wave with core := 16, cur := { s.wave.cur with pc := 0x4000, blk := none } } }
theorem meets_fetch_l : let s := blockHomeL (at_ (.iadd r0))
    s.wave.isL = true ∧ (match (fetchBlock s true false 0x4000).2 with | .ok b => b.len | _ => 0) = 2 := by decide +kernel
theorem meets_block_fetch : let s := blockHome (at_ (.iadd r0))
    let u := { focusSplit 0 0 s with acc := false }
    hasWave 0 s = true ∧ u.wave.cur.idx = 0 ∧ u.wave.cur.blk = none ∧ splitRuns u = true ∧ heldCopy u u.wave.cur.pc = none ∧
    (∀ y ∈ s.teams, y.dirty = []) := by
  decide +kernel
theorem meets_block_fetch_bad : let s := blockHome (at_ (.iadd r0))
    let u := { focusSplit 0 0 { s with mem := (s.mem.writeN 0x20000 [7]) } with acc := false }
    splitRuns u = true ∧ ∃ w, (fetchBlock u u.wave.isL u.wave.cur.h u.wave.cur.pc).2 = .bad w :=
  ⟨by decide +kernel, 0xB020000000006A07, by decide +kernel⟩

theorem meets_issue_conditions : (at_ (.iadd r0)).acc = false ∧ Ready (.iadd r0) (at_ (.iadd r0)) := by unfold Ready; decide +kernel
theorem meets_malformed : let i := Instr.iadd { r0 with ty := 10 }
    let s := at_ (.iadd r0)
    s.wave.live = true ∧ s.acc = false ∧ splitRuns s = true ∧ isInstruction i = true ∧ fateOf s i = some 2 := by decide +kernel
theorem meets_unimplemented : let s := at_ (.idiv r0)
    s.wave.live = true ∧ s.acc = false ∧ splitRuns s = true ∧ formOk (.idiv r0) = true ∧ contextOk s (.idiv r0) (.idiv r0) = true := by
  decide +kernel
def fuse0 : Instr := .fuse { r0 with d := 0, a := .v 0, b := .v 0, ty := 0 }
def unfused (s : State) : State := { s with wave := { s.wave with cur := { s.wave.cur with fused := false } } }
/-- Lane 63's pending path of entry 0, at 0x3000. -/
def owed63 : Deferral := { mask := 0x8000000000000000, pc := 0x3000, held := false, h := false, rj := none, owner := 0, blk := none, posted := none }
def withDef (s : State) : State := { s with wave := { s.wave with defs := [owed63] } }
theorem meets_forced_fuse : let s := unfused (at_ fuse0)
    isInstruction fuse0 = true ∧ needsFuse (expand fuse0) = true ∧ s.wave.live = true ∧ s.acc = false ∧ splitRuns s = true ∧
    fateOf s fuse0 = none ∧ s.wave.cur.fused = false ∧ pendingOf s.wave s.wave.cur.idx = none := by decide +kernel
theorem meets_forced_fuse_pending : let s := withDef (lanes 0x7FFFFFFFFFFFFFFF (unfused (at_ fuse0)))
    splitRuns s = true ∧ fateOf s fuse0 = none ∧ pendingOf s.wave s.wave.cur.idx = some owed63 := by decide +kernel
def mstat0 : Instr := .mstat { r0 with sc := true, d := 4, a := .v 0, b := .v 0, ty := 0 }
theorem meets_partial_wave : let s := lanes 1 (at_ mstat0)
    splitRuns s = true ∧ fateOf s mstat0 = none ∧ s.wave.cur.fused = true ∧ wholeChecked (expand mstat0) = true ∧
    s.wave.cur.mask &&& s.wave.all ≠ s.wave.all := by decide +kernel
/-- v2 awaits a result in quad 15. -/
def empty15 (s : State) : State := { s with wave := { s.wave with vEmpty := [16 * 2 + 15] } }
theorem meets_empty_trap : let i := Instr.iadd { r0 with ep := 1 }
    let j := Instr.iadd { r0 with ep := 4 }
    let s := empty15 (at_ j)
    formOk i = false ∧ fateOf s j = none ∧ wholeChecked (expand j) = false ∧ anyHandler s.wave = false ∧ seqFull s.wave = false ∧
    emptyTrapMask s (expand j) = some 0xF000000000000000 := by decide +kernel
/-- Entry 1 runs a handler, and entry 0 reads s3; the handler's own split may go on; sixteen loads fill the memory unit's queue. -/
def handlerBars : State := let s := at_ (.iadd { r0 with b := .s 3 })
  { s with wave := { s.wave with
    cur := { s.wave.cur with mask := 0xFFFFFFFF }, others := [{ s.wave.cur with idx := 1, mask := 0xFFFFFFFF00000000, h := true }] } }
theorem meets_handler_bars : let i := Instr.iadd { r0 with b := .s 3 }
    let t := focusSplit 0 1 handlerBars
    (heldByHandler handlerBars (expand i) = true ∧ splitRuns handlerBars = true ∧ fateOf handlerBars i = none ∧ wholeChecked (expand i) = false) ∧
    (t.wave.cur.h = true ∧ heldByHandler t (expand i) = false ∧ splitRuns t = true ∧ engineFull i t = false ∧ engineAwaits t (expand i) = false) := by
  decide +kernel
theorem meets_engine_full : let s := run (.ld m0) (sr 2 0x10000 (at_ (.ld m0)))
    let t : State := { s with wave := { s.wave with cur := (at_ (.ld m0)).wave.cur } }
    let u : State := { t with pend := (List.range 16).flatMap fun n => s.pend.map fun p => { p with id := n } }
    (engineAwaits t (expand (.ld m0)) = true ∧ splitRuns t = true ∧ fateOf t (.ld m0) = none) ∧ engineFull (.ld m0) u = true := by decide +kernel
theorem meets_awaits : let s := empty15 (at_ (.iadd r0))
    fateOf s (.iadd r0) = none ∧ wholeChecked (expand (.iadd r0)) = false ∧ emptyTrapMask s (expand (.iadd r0)) = none ∧
    awaits s (expand (.iadd r0)) = true := by decide +kernel

theorem meets_integer : (∀ l, intRegs (expand (.iadd r0)) (at_ (.iadd r0)) l =
      some (r0, resRegs 2 (wrapSat 0 2 (srcInt (at_ (.iadd r0)) 2 (.v 2) l + srcInt (at_ (.iadd r0)) 2 (.v 3) l)))) ∧
    Ready (.iadd r0) (at_ (.iadd r0)) := ⟨fun _ => rfl, by unfold Ready; decide +kernel⟩
theorem meets_integer_each : ∀ i ∈ [Instr.isub r0, .imul r0, .imulh r0, .imad { r0 with c := .v 4 }, .imadw { r0 with d := 8, c := .v 4 },
    .imin r0, .imax r0, .iabs (un 2 0 (.v 0)), .iand r0, .ior r0, .ixor r0, .shl r0, .shr r0, .sra r0, .rot r0, .bfe r0,
    .bfi { r0 with c := .v 4 }, .popc (un 6 0 (.v 0)), .clz (un 6 0 (.v 0)), .brev (un 6 0 (.v 0)), .sel { r0 with c := .mask 2 },
    .mov (un 2 0 (.v 0)), .lea { r0 with d := 8, c := .v 3 }, .icvt { un 3 0 (.v 0) with d := 8, c := .v 2 },
    .movi { stall := 0, ep := 0, k := 0, kn := false, sc := false, d := 1, imm := 7, ty := 2 }], Ready i (at_ i) := by
  unfold Ready; decide +kernel
/-- The state of an L-core at a compact unit. -/
def atUnit (i : Instr) : State :=
  loadWord { State.reset with dies := [die0] } 32 ((encodeUnits i).headD 0).toNat
theorem meets_compact_each : ∀ i ∈ [Instr.iaddI32CompactReg { cA with b := 5, k := 0 }, .iaddI32CompactImm { cA with k := 0 },
    .isubI32CompactReg { cA with k := 0 }, .imulI32CompactImm { cA with k := 0 }, .iminI32Compact { cA with k := 0 },
    .popcN32Compact { uA with k := 0 }, .movI32Compact { uA with k := 0 }, .faddF32Compact { cA with k := 0 },
    .fsqrtF32Compact { uA with k := 0 }, .srdCompact { uA with k := 0, a := 2 }, .nopCompact, .yieldCompact, .exitCompact 0],
    Ready i (atUnit i) := by
  unfold Ready; decide +kernel
theorem meets_min_max : r0.ty.toNat < 8 ∧ Ready (.imin r0) (at_ (.imin r0)) ∧ Ready (.imax r0) (at_ (.imax r0)) := by
  unfold Ready; decide +kernel
theorem meets_carry : Ready (.iaddc { r0 with c := .mask 15, ty := 6 }) (at_ (.iaddc { r0 with c := .mask 15, ty := 6 })) := by unfold Ready; decide +kernel
theorem meets_compare : let f : RF := { r0 with d := 15, c := .v 2 }
    (∀ l, compareOf (.icmp f) (at_ (.icmp f)) l = some (f, icmpCond 2 (srcInt (at_ (.icmp f)) 2 (.v 2) l) (srcInt (at_ (.icmp f)) 2 (.v 3) l))) ∧
    Ready (.icmp f) (at_ (.icmp f)) ∧ Ready (.fcmp { f with ty := 10 }) (at_ (.fcmp { f with ty := 10 })) :=
  ⟨fun _ => rfl, by unfold Ready; decide +kernel, by unfold Ready; decide +kernel⟩
theorem meets_float : let f : RF := { r0 with ty := 10 }
    (∀ l, floatRegs (expand (.fadd f)) (at_ (.fadd f)) l = some (f, resRegs 10
      (resX (at_ (.fadd f)) 10 0 (XVal.add false (srcX (at_ (.fadd f)) 10 (.v 2) l) (srcX (at_ (.fadd f)) 10 (.v 3) l))))) ∧
    Ready (.fadd f) (at_ (.fadd f)) := ⟨fun _ => rfl, by unfold Ready; decide +kernel⟩
theorem meets_float_each : ∀ i ∈ [Instr.fsub { r0 with ty := 9 }, .fmul { r0 with ty := 8 }, .ffma { r0 with ty := 10, c := .v 4 },
    .fmin { r0 with ty := 10 }, .fmax { r0 with ty := 10 }, .fdiv { r0 with ty := 10 }, .fsqrt (un 10 3 (.v 0)), .frnd (un 10 3 (.v 0)),
    .fcvt (un 8 0 (.v 10)), .ftoi (un 2 0 (.v 10)), .itof (un 10 0 (.v 2)), .fclass (un 10 0 (.v 0)), .frcp (un 10 0 (.v 0)),
    .frsq (un 10 0 (.v 0)), .fex2 (un 10 0 (.v 0)), .flg2 (un 10 0 (.v 0)), .fsin (un 10 0 (.v 0)), .fcos (un 10 0 (.v 0)),
    .pack { un 12 0 (.v 0) with a := .v 4 }, .unpack { un 12 0 (.v 0) with d := 4 }], Ready i (at_ i) := by
  unfold Ready; decide +kernel
theorem meets_rounding : (0x7F800000 : Nat) < 2 * f32.signBit true ∧ (3 : Nat) < 4 := by decide
theorem meets_quantise : let f : RF := { r0 with d := 40, a := .v 8, b := .v 0, c := .v 2, ty := 10 }
    let s := lanes 0xFFFF000000000000 (at_ (.qnt f))
    partLanes s.wave (actOf s f) = 0#64 ∧ Ready (.qnt f) s ∧ fullGroups s.wave (actOf s f) = [3] := by unfold Ready; decide +kernel
theorem meets_dequantise : let f : RF := { r0 with d := 40, a := .v 8, b := .v 0, c := .v 2, ty := 10 }
    let s := at_ (.dqnt f)
    partLanes s.wave (actOf s f) = 0#64 ∧ Ready (.dqnt f) s ∧
    s.wave.mode.getLsbD 7 = false := by unfold Ready; decide +kernel

theorem meets_lane : let f : RF := { r0 with d := 8, a := .v 4, b := .v 0, ty := 2 }
    (∀ l, laneRegs (.reduce f) (at_ (.reduce f)) l = some (f, resRegs 2 (treeOver f (at_ (.reduce f)) fun _ => true))) ∧
    f.ty.toNat < 8 ∧ bitsOf (ctlOf f.c) 3 1 = 0 ∧ Ready (.reduce f) (at_ (.reduce f)) :=
  ⟨fun _ => rfl, by decide, by decide, by unfold Ready; decide +kernel⟩
theorem meets_lane_each : ∀ i ∈ [Instr.kpopc { r0 with a := .mask 1, b := .mask 0, ty := 0 }, .kffs { r0 with a := .mask 1, b := .mask 0, ty := 0 },
    .rdfirst (un 2 0 (.v 0)), .shfl r0, .scan (un 2 0 (.v 0)), .segred { un 2 0 (.mask 2) with a := .v 4 }, .segscan { un 2 0 (.mask 2) with a := .v 4 },
    .vote { un 2 3 (.v 0) with d := 15 }, .kop { r0 with d := 15, a := .mask 1, b := .mask 15, ty := 3 }, .perm { r0 with b := .imm 0x1B },
    .compress { r0 with b := .mask 2 }, .expand { r0 with b := .mask 2 }], Ready i (at_ i) := by
  unfold Ready; decide +kernel
theorem meets_vote_empty : let f : RF := { un 2 2 (.v 0) with d := 15, k := 1 }
    Ready (.vote f) (at_ (.vote f)) ∧ actOf (at_ (.vote f)) f = 0#64 := by unfold Ready; decide +kernel
theorem meets_indexed : let f : RF := { r0 with d := 7, a := .v 4, b := .v 0 }
    let g : RF := { r0 with d := 0, a := .v 4, b := .v 3 }
    let s := v 4 0 511 (at_ (.vrdx f))
    let t := v 4 63 511 (at_ (.vwrx g))
    (Ready (.vrdx f) s ∧ badIndexes f s = 0#64 ∧ indexEmpty f s = false) ∧ (Ready (.vwrx g) t ∧ badIndexes g t = 0#64 ∧ indexEmpty g t = false) := by
  unfold Ready; decide +kernel
theorem meets_bad_index : let f : RF := { r0 with d := 7, a := .v 4, b := .v 0 }
    let s := v 4 63 512 (at_ (.vrdx f))
    Ready (.vrdx f) s ∧ badIndexes f s = 0x8000000000000000 := by unfold Ready; decide +kernel

def c0 : RF := { r0 with d := 0, a := .v 0, b := .v 0, ty := 0 }
theorem meets_nop_yield : Ready (.nop c0) (at_ (.nop c0)) ∧ Ready (.yield c0) (at_ (.yield c0)) ∧
    Ready (.yield c0) (inThread (.yield c0)) := by unfold Ready; decide +kernel
def b0 : BF := { k := 2, kn := false, bmod := 0, off := 0xFFFFFFFF, a := .v 0 }
theorem meets_branch : Ready (.bra b0) (at_ (.bra b0)) ∧ (at_ (.bra b0)).wave.defs.length < 16 ∧
    Ready (.bra b0) (inThread (.bra b0)) := by unfold Ready; decide +kernel
/-- Sixteen held deferrals of lane 63, and lanes 0 and 1 left to run. -/
def full (s : State) : State := { (lanes 3 s) with wave := { (lanes 3 s).wave with defs := List.replicate 16 { owed63 with held := true } } }
theorem meets_branch_defer : let s := km 2 1 (full (at_ (.bra b0)))
    Ready (.bra b0) s ∧ s.wave.defs.length = 16 ∧ activeOf s b0.k b0.kn = 1 ∧ s.wave.cur.mask &&& ~~~activeOf s b0.k b0.kn = 2 ∧
    Mask.quads (activeOf s b0.k b0.kn) &&& Mask.quads (s.wave.cur.mask &&& ~~~activeOf s b0.k b0.kn) ≠ 0#64 := by
  unfold Ready; decide +kernel
theorem meets_call : Ready (.call { b0 with a := .v 4 }) (at_ (.call { b0 with a := .v 4 })) ∧
    Ready (.call { b0 with a := .s 4 }) (at_ (.call { b0 with a := .s 4 })) := by unfold Ready; decide +kernel
theorem meets_ret : let f : RF := { c0 with a := .v 2 }
    let s := v 2 0 0x2000 (at_ (.ret f))
    Ready (.ret f) s ∧ s.wave.defs.length + (groupsOf ((Mask.lanes s.wave.cur.mask).map fun l =>
        (l, if Mask.has (actOf s f) l then (pairVal s f.a l).extractLsb' 0 49 else afterPc s (.ret f)))).length ≤ 17 := by
  unfold Ready; decide +kernel
theorem meets_brx : let f : BF := { b0 with k := 0, a := .s 4 }
    let s := sr 4 0x10000 (at_ (.brx f))
    Ready (.brx f) s ∧ (plainReads false [] ((Mask.lanes (activeOf s f.k f.kn)).map fun l => (l, (pairVal s f.a l).toNat, 4))
      (issued (.brx f) s)).2 = List.replicate 64 (.val 0) := by unfold Ready; decide +kernel
def rj0 : BF := { k := 0, kn := false, bmod := 0, off := 0, a := .imm 0 }
/-- Entry 0 with a record of the rejoin point at its block's header. -/
def recorded (late : Bool) (s : State) : State :=
  { s with wave := { s.wave with cur := { s.wave.cur with rj := [{ addr := 0x1000, late := late, mask := 0xFFFFFFFFFFFFFFFF }] } } }
theorem meets_rejoin_none : let s := at_ (.rjoin rj0)
    Ready (.rjoin rj0) s ∧ pendingOf s.wave s.wave.cur.idx = none ∧ s.wave.mode.getLsbD 8 = false ∧
    rejoinPoint s.wave.isL s.wave.cur.blk s.wave.cur.pc = some 0x1000 ∧ (s.wave.cur.rj.dropWhile fun r => r.addr != 0x1000) = [] := by
  unfold Ready; decide +kernel
theorem meets_rejoin_record : ∀ late ∈ [false, true], let s := recorded late (at_ (.rjoin rj0))
    Ready (.rjoin rj0) s ∧ (s.wave.cur.rj.dropWhile fun r => r.addr != 0x1000) =
      [{ addr := 0x1000, late := late, mask := 0xFFFFFFFFFFFFFFFF }] := by unfold Ready; decide +kernel
theorem meets_rejoin_elsewhere : let s := at_ (.rjoin rj0)
    let t : State := { s with wave := { s.wave with cur := { s.wave.cur with blk := s.wave.cur.blk.map fun b => { b with hdr := 0xFFF, len := 2 } } } }
    Ready (.rjoin rj0) t ∧ rejoinPoint t.wave.isL t.wave.cur.blk t.wave.cur.pc = none := by unfold Ready; decide +kernel
theorem meets_exit : let s := at_ (.exit c0)
    Ready (.exit c0) s ∧ actOf s c0 ≠ 0#64 ∧ (∀ w ∈ allWaves s, w.team = s.wave.team → ∀ x ∈ w.cur :: w.others, x.bar = none) ∧
    (findTeam s s.wave.team).map (·.bars) = some [] ∧ Ready (.exit c0) (inThread (.exit c0)) := by unfold Ready; decide +kernel
theorem meets_exit_empty : let f : RF := { c0 with k := 1 }
    Ready (.exit f) (at_ (.exit f)) ∧ actOf (at_ (.exit f)) f = 0#64 := by unfold Ready; decide +kernel
def i0 : IF := { iA with stall := 0, k := 0, kn := false, imm := 0x3FFFFF }
theorem meets_raise : Ready (.bkpt i0) (at_ (.bkpt i0)) ∧ Ready (.trap i0) (at_ (.trap i0)) ∧
    activeOf (at_ (.trap i0)) i0.k i0.kn ≠ 0#64 := by unfold Ready; decide +kernel
theorem meets_raise_empty : let f : IF := { i0 with k := 15 }
    Ready (.bkpt f) (at_ (.bkpt f)) ∧ activeOf (at_ (.bkpt f)) f.k f.kn = 0#64 := by unfold Ready; decide +kernel
theorem meets_sleep : ∀ n ∈ [(0 : Nat), 0x1FFFFF], Ready (.sleep { i0 with imm := BitVec.ofNat 22 n }) (at_ (.sleep { i0 with imm := BitVec.ofNat 22 n })) := by
  unfold Ready; decide +kernel
def wm0 : MF := { m0 with sc := true }
theorem meets_waitmem : let s := sr 2 0x10FFC (at_ (.waitmem wm0))
    Ready (.waitmem wm0) s ∧ (∀ l ∈ mLanes s wm0, mEa s wm0 l % 4 = 0) ∧ mLanes s wm0 = [0] ∧
    probe s s.wave.die s.wave.ctx (accSize (.load wm0.mty.toNat)) (wantOf s true false []) ((mLanes s wm0).map fun l => (l, mEa s wm0 l)) =
      .ok [(0, 0x10FFC, 0x20FFC)] := by unfold Ready; decide +kernel
def bar0 : RF := { c0 with a := .imm 15, b := .imm 0 }
/-- Barrier 15 in use, generation 7. -/
def barred (arr exp : Nat) (s : State) : State :=
  { s with teams := s.teams.map fun t => { t with waves := 2, bars := [{ (findBar t 15) with arr := arr, exp := exp, gen := 7 }] } }
theorem meets_barrier_waits : let s := lanes 1 (at_ (.bar bar0))
    barIdx s bar0.a = 15 ∧ (teamBar s 15).isSome = true ∧ s.wave.cur.posted = none ∧ pendingOf s.wave s.wave.cur.idx = none ∧ Ready (.bar bar0) s ∧
    src32 s bar0.b 0 = 0 ∧
    (teamBar s 15).map (fun x => (barLanes x s.wave.uid &&& s.wave.cur.mask, s.wave.liveLanes &&& ~~~(barLanes x s.wave.uid ||| s.wave.cur.mask)))
      = some (0#64, ~~~1#64) := by unfold Ready; decide +kernel
theorem meets_barrier_last : let s := at_ (.bar { bar0 with b := .imm 16 })
    (teamBar s 15).map (fun x => (s.wave.liveLanes &&& ~~~(barLanes x s.wave.uid ||| s.wave.cur.mask),
      (waveArrive x s.wave.uid 16 1).arr, (waveArrive x s.wave.uid 16 1).exp)) = some (0#64, 1, 16) ∧
    (teamBar (at_ (.bar bar0)) 15).map (fun x => ((waveArrive x 0 0 1).arr, (waveArrive x 0 0 1).exp)) = some (1, 1) := by decide +kernel
theorem meets_arrive_wait : let f : RF := { bar0 with sc := true, d := 4 }
    let g : RF := { bar0 with b := .s 4 }
    Ready (.bararv f) (at_ (.bararv f)) ∧ Ready (.barwt g) (at_ (.barwt g)) ∧
    (teamBar (at_ (.barwt g)) 15).map (·.gen) = some (BitVec.ofNat 32 (src32 (at_ (.barwt g)) g.b 0)) ∧
    (teamBar (barred 0 2 (at_ (.barwt g))) 15).map (·.gen) = some 7 ∧ src32 (at_ (.barwt g)) g.b 0 = 0 := by unfold Ready; decide +kernel
theorem meets_barrier_issue : let s := at_ (.bar bar0)
    let u := at_ (.bararv { bar0 with sc := true, d := 4 })
    let z := at_ (.barwt { bar0 with b := .s 4 })
    (Ready (.bar bar0) s ∧ s.wave.cur.posted = none ∧ src32 s bar0.b 0 ≤ 16 ∧ teamBar s 15 = some (findBar ((findTeam s s.wave.team).getD default) 15) ∧
      barLanes (findBar ((findTeam s s.wave.team).getD default) 15) s.wave.uid &&& s.wave.cur.mask = 0#64) ∧
    (Ready (.bararv { bar0 with sc := true, d := 4 }) u ∧ src32 u bar0.b 0 ≤ 16) ∧ Ready (.barwt { bar0 with b := .s 4 }) z := by
  unfold Ready; decide +kernel
/-- A count of 17, a lane that has arrived already, a BAR issued again with its token, and with a pending deferral. -/
theorem meets_barrier_corners : let f : RF := { bar0 with b := .s 4 }
    let s := sr 4 17 (at_ (.bar f))
    let u := barred 0 2 (at_ (.bar bar0))
    let u : State := { u with teams := u.teams.map fun t => { t with bars := t.bars.map fun b => { b with lanes := [(0, 1, 0)] } } }
    let p : State := { s with wave := { s.wave with cur := { s.wave.cur with posted := some (15, 7) } } }
    let d := withDef (lanes 0x7FFFFFFFFFFFFFFF (at_ (.bar bar0)))
    (Ready (.bar f) s ∧ 16 < src32 s f.b 0) ∧ (Ready (.bar bar0) u ∧ (teamBar u 15).map (fun x => barLanes x u.wave.uid &&& u.wave.cur.mask) = some 1) ∧
    (Ready (.bar f) p ∧ pendingOf p.wave p.wave.cur.idx = none ∧ barGen p 15 ≠ 7) ∧ barGen (barred 0 2 p) 15 = 7 ∧
    (Ready (.bar bar0) d ∧ pendingOf d.wave d.wave.cur.idx = some owed63) := by unfold Ready; decide +kernel
def rg0 : RF := { r0 with d := 8, a := .v 2, b := .mask 1 }
theorem meets_regroup : let i := Instr.regroup rg0 { part := 1 }
    let s := at_ i
    Ready i s ∧ s.wave.waveId = 0 ∧ (∀ w ∈ s.bg, liveOf s.wave.team w = false) ∧ s.wave.liveLanes ≠ 0#64 ∧ s.wave.width ≤ 64 := by
  unfold Ready; decide +kernel
/-- v2 of its live mask k1 awaits a result. -/
theorem meets_regroup_owed : let f : RF := { rg0 with a := .v 4 }
    let s := km 1 4 (empty15 (at_ (.regroup f { part := 1 })))
    Ready (.regroup f { part := 1 }) s ∧ (rdK s 1).getLsbD 2 = true ∧ emptyAny s (.v 2) = true ∧ 2 < s.wave.regs := by
  unfold Ready; decide +kernel
theorem meets_regroup_other : let i := Instr.regroup rg0 { part := 0x8000 }
    let j := Instr.regroup rg0 { part := 0x8001 }
    let s := at_ j
    let o : Wave := { (loadWave 0) with uid := 1, waveId := 15, team := s.wave.team }
    let t : State := { s with bg := [o] }
    Ready i (at_ i) ∧ Ready j t ∧ (∀ w ∈ t.bg, regroupOf w = none) ∧
    (∃ w ∈ t.bg, liveOf t.wave.team w = true ∧ w.waveId < 16 ∧ w.waveId ≠ t.wave.waveId ∧ (0x8001#16).getLsbD w.waveId = true) := by
  unfold Ready; decide +kernel
theorem meets_special : let f : RF := { un 0 0 (.v 0) with a := .spec 0x0E }
    let g : RF := { r0 with sc := true, d := 0, a := .spec 0x0D, b := .imm 0x7F, ty := 0 }
    Ready (.srd f) (at_ (.srd f)) ∧ actOf (at_ (.srd f)) f ≠ 0#64 ∧ Ready (.swr g) (at_ (.swr g)) := by unfold Ready; decide +kernel
theorem meets_special_handler : let g : RF := { r0 with sc := true, d := 0, a := .spec 0x11, b := .s 4, ty := 0 }
    let s := at_ (.swr g)
    Ready (.swr g) { s with wave := { s.wave with cur := { s.wave.cur with h := true } } } := by unfold Ready; decide +kernel

/-! ### The statements' hypotheses are met: memory and the engines of a wave -/

/-- A field of every context's descriptor. -/
def desc (off n x : Nat) (s : State) : State :=
  { s with ctxs := s.ctxs.map fun c => { c with desc := c.desc.take off ++ bytesOf n x ++ c.desc.drop (off + n) } }
/-- Table 0 of the context is enabled at place 0x80000 with 16 buckets, and an address's bucket of way 0 holds an entry. -/
def tableEntry (va w0 w1 : Nat) (s : State) : State :=
  desc 0x18 8 (2 ^ 32) (desc 0x10 8 (2 ^ 52 + 0x80000) (mem (bucketKey (2 ^ 52 + 0x80000) 0 va 0 0) (bytesOf 8 w0 ++ bytesOf 8 w1) s))
/-- The mapped page's entry stands in the table. -/
def homePage (s : State) : State := tableEntry 0x10000 0x80000000000100DC 0x20000 s
def reqOf (i : Instr) (s : State) : MemReq := (memReq i s).getD (mReq m0 s (.load 2) 4 (wantOf s true false []) 1 fun _ => 0)
def pend0 (s : State) : Pending := s.pend.headD default
def atHome (i : Instr) : State := sr 2 0x10000 (at_ i)
theorem meets_memory_request : ∀ i ∈ [Instr.ld m0, .st m0, .xrnd { m0 with mty := 2 }, .compst m0, .expld m0, .atom a0,
    .atomn { a0 with d := 0 }, .xadd { a0 with d := 0, aty := 4 }], let s := atHome i
    (memReq i s).isSome = true ∧ Ready i s ∧ queued s < 16 ∧ (reqOf i s).accs.length = 64 ∧ (reqOf i s).bad = [] ∧
    (match probe s s.wave.die s.wave.ctx (reqOf i s).size (reqOf i s).want (reqOf i s).accs with | .ok k => k.length | _ => 0) = 64 := by
  unfold Ready; decide +kernel
theorem meets_memory_thread : let i := Instr.ld { m0 with sc := true }
    Ready i (inThread i) ∧ (reqOf i (inThread i)).accs.length = 1 := by unfold Ready; decide +kernel
theorem meets_memory_empty : let i := Instr.ld { m0 with k := 1 }
    Ready i (at_ i) ∧ queued (at_ i) < 16 ∧ (reqOf i (at_ i)).accs = [] := by unfold Ready; decide +kernel
theorem meets_memory_faults : let i := Instr.ld m0
    let s := sr 2 0x10FFD (at_ i)
    let t := sr 2 0x11000 (at_ i)
    (Ready i s ∧ (reqOf i s).bad.length = 64) ∧
    (Ready i t ∧ (reqOf i t).bad = [] ∧
      (match probe t t.wave.die t.wave.ctx 4 (reqOf i t).want (reqOf i t).accs with | .fault c b m a => (c, b, m, a) | _ => (0, 0, 0, 0)) =
        (10, 1, 0xFFFFFFFFFFFFFFFF, 0x11000)) := by unfold Ready; decide +kernel
/-- The state just after an access has issued. -/
def sent (i : Instr) : State := run i (atHome i)
theorem meets_load_reply : ∀ i ∈ [Instr.ld m0, .xrnd { m0 with mty := 3 }], let s := sent i
    let p := pend0 s
    findPending s p.id = some p ∧ quadReady s p 15 = true ∧ (findWave p.uid s).map (·.live) = some true ∧
    ((quadLanes p 15).map (·.lane)).Nodup ∧ (∀ a ∈ quadLanes p 15, a.lane < 64) ∧ p.scalar = false ∧ p.thread = false ∧
    (∀ a ∈ quadLanes p 15, (a.key < 2 ^ 80 ∧ placeHeld a.key = true ∧ s.raw = []) ∧ (∀ t ∈ s.teams, t.dirty = []) ∧ slotOf s (some p.team) a.va = none) ∧
    (p.kind = .load 2 ∨ p.kind = .xrnd 3) := by decide +kernel
theorem meets_load_reply_scalar : let s := sent (.ld { m0 with sc := true })
    let p := pend0 s
    quadReady s p 0 = true ∧ p.scalar = true ∧ (quadLanes p 0).length = 1 := by decide +kernel
theorem meets_performed : ∀ i ∈ [Instr.st m0, .atom a0, .xadd { a0 with d := 0, aty := 4 }], let s := sent i
    let p := pend0 s
    findPending s p.id = some p ∧ allReady s p = true ∧ (p.lanes.map (·.lane)).Nodup ∧ p.thread = false ∧ p.scalar = false ∧
    ∀ a ∈ p.lanes, ((a.key < 2 ^ 80 ∧ placeHeld a.key = true ∧ s.raw = []) ∧ (∀ t ∈ s.teams, t.dirty = []) ∧
      slotOf s (some p.team) a.va = none) ∧ a.lane < 64 := by
  decide +kernel
/-- The team has mapped its stash's first page onto the mapped page. -/
def mapped (s : State) : State :=
  { s with teams := s.teams.map fun t => { t with alloc := 8192, maps := [{ slot := 0, g := 0x10000, o := 0, len := 4096, ro := false }] } }
def mappedStore : State := run (.st { m0 with data := 4 }) (lanes 1 (mapped (sr 2 0x1003C (at_ (.st { m0 with data := 4 })))))
theorem meets_mapped_store : let s := mappedStore
    let p := pend0 s
    findPending s p.id = some p ∧ allReady s p = true ∧ p.kind = .store 4 ∧ p.lanes.map (·.key) = [0x2003C] ∧ (findTeam s p.team).isSome = true ∧
    (slotOf s (some p.team) 0x1003C).isSome = true ∧ (∀ t ∈ s.teams, t.dirty = []) ∧ tgtOfKey 0x2003C = 0 ∧ placeHeld 0x20000 = true ∧ s.raw = [] ∧ 0x2003C % 64 + 4 ≤ 64 := by
  decide +kernel
/-- The line at 0x20000 is dirty in the team's stash. -/
def dirtied (s : State) : State :=
  { (mapped s) with teams := (mapped s).teams.map fun t => { t with
    dirty := [{ slot := 0, va := 0x10000, key := 0x20000, bytes := List.replicate 64 7 }] } }
def fl0 : MF := { m0 with sc := true, data := 6, mty := 0 }
theorem meets_flush : let s := sr 6 64 (homePage (dirtied (atHome (.sflush fl0))))
    let t := sr 6 64 (homePage (dirtied (atHome (.sinv fl0))))
    (Ready (.sflush fl0) s ∧ mEa s fl0 0 % 64 = 0 ∧ (rdS s fl0.data.toNat).toNat % 64 = 0 ∧
      (dirtyIn s s.wave.team (mEa s fl0 0) 64).length = 1) ∧
    (Ready (.sinv fl0) t ∧ teamTouches t t.wave.team [(mEa t fl0 0 % 2 ^ 52, (rdS t fl0.data.toNat).toNat)] [] = false) ∧
    (copyOwns s (64 * (0x2003F / 64)) 64 = false ∧ (findDirty s (64 * (0x2003F / 64))).isSome = true) := by unfold Ready; decide +kernel
def sm0 : RF := { c0 with sc := true, a := .s 2, b := .s 4, c := .s 5, ty := 7 }
theorem meets_smap : ∀ n ∈ [(0 : Nat), 4096], let s := sr 4 4096 (sr 5 (BitVec.ofNat 32 n) (mapped (atHome (.smap sm0))))
    Ready (.smap sm0) s ∧ (rdS64 s 2).toNat % 4096 = 0 ∧ (rdS s 4).toNat % 4096 = 0 ∧ (rdS s 5).toNat % 4096 = 0 ∧
    canonical (rdS64 s 2).toNat = true ∧ (findTeam s s.wave.team).map (·.alloc) = some 8192 ∧
    (rdS s 4).toNat + (rdS s 5).toNat ≤ 8192 ∧ mmioPage s 0x10000 (rdS s 5).toNat = none ∧
    s.pend = [] ∧ (findTeam s s.wave.team).map (·.dirty) = some [] ∧ s.mem.wf = true := by unfold Ready; decide +kernel
def fe0 : MF := { m0 with data := 0, base := 0, mty := 0 }
theorem meets_fence : ∀ o ∈ [0#2, 1#2, 2#2, 3#2], formOk (.fence { fe0 with ord := o }) = true → 
    Ready (.fence { fe0 with ord := o }) (at_ (.fence { fe0 with ord := o })) ∧ ownWrites false (at_ (.fence { fe0 with ord := o })) = false := by
  unfold Ready; decide +kernel
/-- A store of the wave in flight. -/
theorem meets_fence_held : let i := Instr.fence { fe0 with ord := 3 }
    let s : State := { (at_ i) with pend := (sent (.st m0)).pend }
    Ready i s ∧ ownWrites false s = true := by unfold Ready; decide +kernel
/-- A load of lane 0 in flight, behind it an acquire fence, and a load that has passed it. -/
theorem meets_fence_mark : let q := pend0 (sent (.ld m0))
    let m : FenceMark := { lanes := 1, ord := 1, first := q.id + 1 }
    let p : Pending := { q with id := q.id + 1, marks := [m] }
    isAccess q.kind = true ∧ isLoad q.kind = true ∧ (∀ a ∈ q.lanes.take 1, sameAgent p a q a = true ∧ m.lanes.has a.lane = true) ∧
    q.lanes.take 1 ≠ [] ∧ q.id < m.first ∧ bitAt m.ord 0 = true := by decide +kernel
theorem meets_prefetch : Ready (.pref { m0 with data := 0 }) (atHome (.pref { m0 with data := 0 })) := by unfold Ready; decide +kernel
theorem meets_handle_words : let f : RF := { r0 with sc := true, d := 0, a := .imm 0x7F, b := .imm 0x7F, ty := 0 }
    let g : RF := { r0 with sc := true, d := 4, a := .imm 0x7F, b := .v 0, ty := 0 }
    Ready (.hset f) (at_ (.hset f)) ∧ Ready (.hget g) (at_ (.hget g)) := by unfold Ready; decide +kernel
/-- Handle h1: a dense tensor of 63 n32 elements at 0x10100, its one level's entry at 0x10000. -/
def handled (s : State) : State :=
  wrH (wrH (wrH (mem 0x20010 [63] s) 1 0 0x10100) 1 2 0x10000) 1 4 6
/-- Lanes 0 and 1 active: coordinate 62, the last, and 63, the first that is absent. -/
def coords (s : State) : State := lanes 3 (v 4 0 62 (v 4 1 63 (handled s)))
def tf0 : RF := { r0 with d := 8, a := .v 4, b := .v 0, ty := 0 }
def ts0 : RF := { r0 with d := 0, a := .v 4, b := .v 8, ty := 0 }
theorem meets_tensor_load : let i := Instr.tld tf0 { km := 1, hnd := 1 }
    let s := coords (at_ i)
    let u := issued i s
    let h := readHandle s 1
    let ws := (walkLanes h tf0.a (Mask.lanes (actOf s tf0)) u).2
    Ready i s ∧ tensorBad s tf0 h (.v tf0.d) = false ∧ gatherWalks u noMmio ws = none ∧
    queued s < 16 ∧ ws = [(0, .elem 62), (1, .absent)] ∧ elemAt h 62 = (0x101F8, 0) ∧
    0x101F8 % accSize (.tload h.ety.toNat h.sdb (h.ecount.getD 62)) = 0 ∧
    probe s s.wave.die s.wave.ctx (accSize (.tload h.ety.toNat h.sdb (h.ecount.getD 62))) (wantOf s true false noMmio) [(0, 0x101F8)]
      = .ok [(0, 0x101F8, 0x201F8)] := by unfold Ready; decide +kernel
theorem meets_tensor_store : let i := Instr.tst ts0 { km := 15, hnd := 1 }
    let s := coords (at_ i)
    let u := issued i s
    let h := readHandle s 1
    let ws := (walkLanes h ts0.a (Mask.lanes (actOf s ts0)) u).2
    Ready i s ∧ h.sdb = false ∧ tensorBad s ts0 h ts0.b = false ∧ gatherWalks u noMmio ws = none ∧
    queued s < 16 ∧ ws = [(0, .elem 62), (1, .absent)] ∧
    probe s s.wave.die s.wave.ctx (accSize (.store (tyBits h.ety / 8))) { wantOf s (h.ety == 14#4) true noMmio with store := true } [(0, 0x101F8)]
      = .ok [(0, 0x101F8, 0x201F8)] := by unfold Ready; decide +kernel
theorem meets_tensor_bad : let i := Instr.tld tf0 { km := 1, hnd := 2 }
    let j := Instr.tst ts0 { km := 1, hnd := 2 }
    (Ready i (wrH (at_ i) 2 4 0xFFFFFFFF) ∧ tensorBad (wrH (at_ i) 2 4 0xFFFFFFFF) tf0 (readHandle (wrH (at_ i) 2 4 0xFFFFFFFF) 2) (.v tf0.d) = true) ∧
    (Ready j (wrH (at_ j) 2 4 0xFFFFFFFF) ∧ tensorBad (wrH (at_ j) 2 4 0xFFFFFFFF) ts0 (readHandle (wrH (at_ j) 2 4 0xFFFFFFFF) 2) ts0.b = true) := by
  unfold Ready; decide +kernel

/-- A bound queue with `n` entries. -/
def queueOf (side : Side) (closed : Bool) (n : Nat) : OpQueue :=
  { name := 15, prod := side, closed := closed, entries := List.replicate n { valid := 1, elems := [], fault := none, src := [] } }
def withQ (x : OpQueue) (s : State) : State := { s with wave := { s.wave with queues := [x] } }
def push0 : RF := { c0 with a := .v 2, c := .v 15 }
def pop0 : RF := { c0 with d := 20, b := .mask 15, c := .v 15 }
theorem meets_push : let i := Instr.qpush push0
    Ready i (at_ i) ∧ heldFault (at_ i).wave = none ∧ qOf push0 = 15 ∧ findQ (at_ i).wave (qOf push0) = none ∧
    (∀ n ∈ [0, 15, 16], findQ (withQ (queueOf .execute false n) (at_ i)).wave 15 = some (queueOf .execute false n)) ∧
    Ready i (withQ (queueOf .execute false 16) (at_ i)) := by unfold Ready; decide +kernel
theorem meets_push_wrong : let i := Instr.qpush push0
    Ready i (withQ (queueOf .porter true 1) (at_ i)) ∧ findQ (withQ (queueOf .porter true 1) (at_ i)).wave 15 = some (queueOf .porter true 1) ∧
    Ready i (withQ (queueOf .none true 0) (at_ i)) ∧ findQ (withQ (queueOf .none true 0) (at_ i)).wave 15 = some (queueOf .none true 0) := by
  unfold Ready; decide +kernel
theorem meets_pop : let i := Instr.qpop pop0
    (∀ n ∈ [0, 1, 16], ∀ c ∈ [false, true], let s := withQ (queueOf .porter c n) (at_ i)
      Ready i s ∧ heldFault s.wave = none ∧ qOf pop0 = 15 ∧ isIndexQ s.wave 15 = false ∧ findQ s.wave 15 = some (queueOf .porter c n)) := by
  unfold Ready; decide +kernel
theorem meets_stat_close : let f : RF := { c0 with sc := true, d := 4, c := .v 15 }
    let g : RF := { c0 with c := .v 15 }
    Ready (.qstat f) (at_ (.qstat f)) ∧
    Ready (.qclose g) (withQ (queueOf .none false 0) (at_ (.qclose g))) := by unfold Ready; decide +kernel
def pl0 : Instr := .plaunch c0 { off := 0x10, bind := 0x8001 }
theorem meets_plaunch : let s := withQ (queueOf .execute false 1) (at_ pl0)
    Ready pl0 s ∧ heldFault s.wave = none ∧ s.wave.thread = none ∧ s.wave.streams = [] ∧ (∀ n, n < 32 → emptyIn s 0 (.s n) = false) ∧
    (∀ c ∈ s.wave.splits, c.sync = none) ∧
    boundQueues s + ((List.range 16).filter fun n => (0x8001#16).getLsbD n && (findQ s.wave n).isNone).length ≤ 16 := by
  unfold Ready; decide +kernel
/-- The split at its first PSYNC, not released. -/
def atPsync (i : Instr) (rel : Nat) : State :=
  let s := at_ i
  { s with wave := { s.wave with psync := 1, released := rel, cur := { s.wave.cur with sync := some 1 } } }
theorem meets_psync : let i := Instr.psync c0
    Ready i (at_ i) ∧ heldFault (at_ i).wave = none ∧ (at_ i).wave.cur.sync = none ∧
    (∀ n ∈ [0, 1], Ready i (atPsync i n) ∧ (atPsync i n).wave.cur.sync = some 1 ∧ (atPsync i n).wave.released = n) ∧
    Ready i (inThread i) ∧ (inThread i).wave.thread.map (·.atSync) = some false := by unfold Ready; decide +kernel
theorem meets_psync_release : let s := inThread (.psync c0)
    let s : State := { s with wave := { s.wave with psync := 1, syncIds := [1], thread := s.wave.thread.map fun t => { t with atSync := true } } }
    let u := { focusWave 0 s with acc := false }
    u.wave.uid = 0 ∧ ctxRuns u u.wave.ctx = true ∧ psyncReady u = true ∧ u.wave.thread.isSome = true := by decide +kernel
def st0 : StreamX := { ndim := 0, strm := false, sh := 0, mode := 0, mty := 2, qi := 0, qd := 15 }
def sf0 : RF := { c0 with a := .s 8 }
theorem meets_stream : let s := inThread (.qld sf0 st0)
    let t := inThread (.qst sf0 st0)
    Ready (.qld sf0 st0) s ∧ s.wave.streams.length < 4 ∧ ((subWaves s).map fun w => w.streams.length).foldl (· + ·) 0 < 16 ∧
    Ready (.qst sf0 st0) t := by unfold Ready; decide +kernel
/-- A stream of 100 n32 elements from 0x10000, 64 of them taken. -/
def stream (load : Bool) : PStream :=
  { id := 3, isLoad := load, indexed := false, pc := 0x1001, base := 0x10000, counts := [100], strides := [4], sh := 0, mty := 2, qi := 0,
    qd := 15, limit := none, next := 64, pre := none, stopped := false, again := false, early := [], fault := none, faultIdx := false }
def streaming (load : Bool) (n : Nat) : State :=
  let s := withQ (queueOf (if load then .porter else .execute) false n) (at_ (.nop c0))
  { s with wave := { s.wave with streams := [stream load] } }
theorem meets_stream_entry : let u := { focusWave 0 (streaming true 15) with acc := false }
    let ks := (List.range 36).map fun l => (l, 0x10100 + 4 * l, 0x20100 + 4 * l)
    u.wave.uid = 0 ∧ ctxRuns u u.wave.ctx = true ∧ u.wave.parked = none ∧ u.wave.streams.find? (fun t => t.id == 3) = some (stream true) ∧
    (stream true).next < streamCount (stream true) ∧ earlierUser u.wave (stream true) = false ∧ u.wave.liveLanes ≠ 0#64 ∧
    findQ u.wave 15 = some (queueOf .porter false 15) ∧ probeEntry u (stream true) (affineLanes u.wave.width (stream true)) = .ok ks ∧
    (∀ k ∈ ks, (k.2.2 < 2 ^ 80 ∧ (∀ t ∈ u.teams, t.dirty = []) ∧ slotOf u (some u.wave.team) k.2.1 = none) ∧ k.1 < 64) ∧
    (ks.map (·.1)).Nodup := by decide +kernel
theorem meets_store_entry : let u := { focusWave 0 (streaming false 1) with acc := false }
    let e : QEntry := { valid := 1, elems := [], fault := none, src := [] }
    findQ u.wave 15 = some (queueOf .execute false 1) ∧ (queueOf .execute false 1).entries = [e] ∧ earlierUser u.wave (stream false) = false ∧
    u.wave.streams.find? (fun t => t.id == 3) = some (stream false) ∧
    probeEntry u (stream false) ((affineLanes u.wave.width (stream false)).filter fun a => e.valid.getLsbD a.1) = .ok [(0, 0x10100, 0x20100)] := by
  decide +kernel
theorem meets_auto_close : let s := withQ (queueOf .porter false 0) (inThread (.nop c0))
    let s : State := { s with wave := { s.wave with thread := s.wave.thread.map fun t => { t with done := true } } }
    let u := focusWave 0 s
    u.wave.uid = 0 ∧ u.wave.thread.map (·.done) = some true ∧ u.wave.streams = [] ∧ findQ u.wave 15 = some (queueOf .porter false 0) := by
  decide +kernel

/-! ### The statements' hypotheses are met: copies, matrix steps, textures, raster batches -/

def cx0 : CopyX := { scope := 0, sig := true, sreg := 40 }
def cpF : RF := { c0 with sc := true, d := 4, a := .s 8 }
def cpX : CpyX := { x := cx0, esize := 2, ndim := 0 }
def cpI : Instr := .cpy cpF cpX
/-- Four n32 elements from 0x10000 to 0x10400, with a signal at 0x10800. -/
def copyRegs (s : State) : State :=
  sr 8 0x10000 (sr 10 0x10400 (sr 12 4 (sr 13 4 (sr 14 4 (sr 40 0x10800 s)))))
theorem meets_copy_issue : let s := copyRegs (at_ cpI)
    let cmd := cpyCommand cpF cpX s
    Ready cpI s ∧ freeTag s s.wave.die s.wave.core = some 0 ∧ waitingCopies s s.wave.die s.wave.core < 32 ∧
    (fillsOf cmd.copy.kind).all (fun q => bindable s q.1 q.2.1) = true ∧ cmd.limits = true ∧
    (∀ y ∈ cmd.aligns ++ [(0x10800 % 8 == 0, 0x10800)], y.1 = true) ∧ sigAddr cx0 s = some 0x10800 ∧
    placesOf s s.wave.die s.wave.ctx (probeWant s dstWant) (destPieces cmd.copy) = .ok [(0x20400, 4), (0x20404, 4), (0x20408, 4), (0x2040C, 4)] ∧
    placesOf s s.wave.die s.wave.ctx (probeWant s sigWant) [(0x10800, 8)] = .ok [(0x20800, 8)] := by unfold Ready; decide +kernel
theorem meets_copy_misaligned : let s := sr 40 0x10804 (copyRegs (at_ cpI))
    let cmd := cpyCommand cpF cpX s
    Ready cpI s ∧ cmd.limits = true ∧ (cmd.aligns ++ [(0x10804 % 8 == 0, 0x10804)]).find? (fun y => !y.1) = some (false, 0x10804) := by
  unfold Ready; decide +kernel
theorem meets_copy_limit : let x : CpygX := { x := { cx0 with sig := false, sreg := 0 }, idx := 9 }
    let f : RF := cpF
    let s := sr 12 65540 (copyRegs (at_ (.cpyg f x)))
    Ready (.cpyg f x) s ∧ (cpygCommand f x s).limits = false ∧ freeTag s s.wave.die s.wave.core = some 0 := by unfold Ready; decide +kernel
theorem meets_copy_each : let x : CopyX := { scope := 0, sig := false, sreg := 0 }
    ∀ i ∈ [Instr.cpyh cpF { x := x, esize := 2, bmode := 0, edge := 0, halo := 1 },
      .cpys cpF { x := x, str := 4, fm := 0, pat := 1, tm := 0, etype := 12, drop := false }, .cpyq cpF { x := x, str := 0, rows := 1 }],
    Ready i (copyRegs (at_ i)) := by unfold Ready; decide +kernel
/-- The copy issued; and begun. -/
def copying : State := run cpI (copyRegs (at_ cpI))
def begun : State := run (.copyChunk 0 0 0) copying
def tag0 (s : State) : Tag := s.tags.headD default
def copy0 (s : State) : Copy := (tag0 s).copy.getD default
def tg0 : RF := { c0 with a := .s 50 }
theorem meets_tags : let on (i : Instr) : State := sr 50 1 { (at_ i) with tags := copying.tags }
    let f : RF := { tg0 with sc := true, d := 4 }
    (Ready (.twait tg0) (on (.twait tg0)) ∧ tagFault tg0 (on (.twait tg0)) = none ∧ (namedTags tg0 (on (.twait tg0))).length = 1) ∧
    Ready (.tffr f) (on (.tffr f)) ∧ Ready (.tclr tg0) (on (.tclr tg0)) := by unfold Ready; decide +kernel
theorem meets_copy_begin : let s := copying
    findTag s 0 0 0 = some (tag0 s) ∧ (tag0 s).state = .busy ∧ (tag0 s).copy = some (copy0 s) ∧ ctxRuns s (copy0 s).ctx = true ∧
    (copy0 s).stale = false ∧ (copy0 s).started = false ∧ mayBegin s (tag0 s) (copy0 s) = true := by decide +kernel
theorem meets_copy_chunk : let s := begun
    let c := copy0 s
    findTag s 0 0 0 = some (tag0 s) ∧ (tag0 s).copy = some c ∧ c.stale = false ∧ c.started = true ∧ c.next < chunkCount c ∧ 0 < unitCount c ∧
    (∀ t ∈ s.teams, t.dirty = []) ∧ s.raw = [] ∧
    (chunkUnits c).map (fun u => (u.1.dst, u.2)) = [(0x10400, 0x20400), (0x10404, 0x20404), (0x10408, 0x20408), (0x1040C, 0x2040C)] ∧
    placesOf s 0 c.ctx (readWant c) ((chunkUnits c).filterMap fun u => u.1.src.map fun a => (a, u.1.len)) =
      .ok [(0x20000, 4), (0x20004, 4), (0x20008, 4), (0x2000C, 4)] ∧ unitLen c = 4 ∧
    (∀ d ∈ [0x20400, 0x20404, 0x20408, 0x2040C], placeHeld d = true ∧ otherOwns s c true d 4 = false) ∧
    (∀ k ∈ [0x20000, 0x20004, 0x20008, 0x2000C], placeHeld k = true ∧ otherOwns s c false k 4 = false ∧ ∀ b, b < 4 → ownDest c (k + b) = false) := by
  decide +kernel
theorem meets_copy_complete : let s := run (.copyChunk 0 0 0) begun
    let c := copy0 s
    findTag s 0 0 0 = some (tag0 s) ∧ (tag0 s).state = .busy ∧ (tag0 s).copy = some c ∧ c.stale = false ∧ c.started = true ∧ chunkCount c ≤ c.next ∧
    c.sig = some (0x10800, 0x20800) ∧ (tag0 s).queue = none ∧ placeHeld 0x20800 = true ∧ s.raw = [] ∧ (∀ t ∈ s.teams, t.dirty = []) ∧
    copyOwns s 0x20800 8 = false ∧ s.owed = [] := by decide +kernel
/-- Five entries of one row into the A-stream 0; one of them is taken. -/
def cqI : Instr := .cpyq cpF { x := { scope := 0, sig := false, sreg := 0 }, str := 0, rows := 1 }
def queueCopy : State := run (.copyChunk 0 0 0) (run cqI (sr 8 0x10000 (sr 10 64 (sr 11 64 (sr 12 5 (at_ cqI))))))
theorem meets_stream_copy : let s := queueCopy
    let c := copy0 s
    c.kind = .cpyq 0 1 64 64 5 ∧ c.started = true ∧ c.next < chunkCount c ∧ (∀ t ∈ s.teams, t.dirty = []) ∧ earlierFill s c = false ∧
    roomFor s c (min 4 (5 - 4 * c.next)) = true ∧ c.src = 0x10000 ∧
    placesOf s 0 c.ctx (readWant c) ((List.range 4).map fun e => (0x10000 + 64 * e, 64)) =
      .ok [(0x20000, 64), (0x20040, 64), (0x20080, 64), (0x200C0, 64)] ∧
    (∀ k ∈ [0x20000, 0x20040, 0x20080, 0x200C0], placeHeld k = true ∧ otherOwns s c false k 64 = false) ∧ s.raw = [] ∧ (findWave c.uid s).map (·.live) = some true ∧
    ((findWave c.uid s).bind fun w => findMs w 0 0).isSome = true := by decide +kernel
/-- One block of CPYS, all its columns at 0x10000, a residual list of one entry at 0x10400 and the status behind it. -/
def csI : Instr := .cpys cpF { x := { scope := 0, sig := false, sreg := 0 }, str := 4, fm := 0, pat := 1, tm := 0, etype := 12, drop := false }
def sparseCopy : State :=
  run (.copyChunk 0 0 0) (run csI (sr 8 0x10000 (sr 10 0 (sr 11 1 (sr 12 0x10400 (sr 14 1 (sr 16 0x10500 (at_ csI))))))))
theorem meets_sparse_copy : let s := sparseCopy
    let c := copy0 s
    let ks := (List.range 16).flatMap fun _ => (List.range 4).map fun q => (0x20000 + 64 * q, 64)
    let cols := List.replicate 16 (List.replicate 256 0)
    findTag s 0 0 0 = some (tag0 s) ∧ (tag0 s).copy = some c ∧ c.kind = .cpys 4 0 1 1 12 false 0 1 1 0 ∧ c.stale = false ∧ c.started = true ∧
    c.next < chunkCount c ∧ (∀ t ∈ s.teams, t.dirty = []) ∧ earlierFill s c = false ∧ roomFor s c (sparseEntries 1 1).length = true ∧
    placesOf s 0 c.ctx (readWant c) (sparsePieces c 0) = .ok ks ∧
    ((List.range 16).map fun j => (List.range 4).flatMap fun q => s.mem.readN ((ks.getD (4 * j + q) (0, 0)).1) 64) = cols ∧
    (∀ k ∈ [0x20000, 0x20040, 0x20080, 0x200C0], placeHeld k = true ∧ otherOwns s c false k 64 = false) ∧
    (∀ a, a < 256 → ownDest c (0x20000 + a) = false) ∧ s.raw = [] ∧
    (sparseWrites c 1 1 12 false 1 1 0 cols).map (fun o => (o.2.1, o.2.2.length)) = [(0x20500, 8)] ∧ placeHeld 0x20500 = true ∧ otherOwns s c true 0x20500 8 = false ∧
    (findWave c.uid s).map (·.live) = some true ∧ ((findWave c.uid s).bind fun w => findMs w 1 0).isSome = true ∧
    ((findWave c.uid s).bind fun w => findMs w 2 0).isSome = true := by decide +kernel

def mzF : RF := { c0 with d := 0x80 }
def mmX : MmaX := { acc := 7, fa := 0, fb := 0, fm := 0, nstep := 1, aty := 8, bty := 8, sdb := false, pat := 0, terms := 0 }
def mmI : Instr := .mma c0 mmX
theorem meets_matrix_issue : ∀ i ∈ [Instr.mzero mzF, .mrd { c0 with d := 8, ty := 10 }, .mwr { c0 with a := .v 8, ty := 10 },
    .mres { c0 with a := .v 8, b := .v 9, ty := 10 }, mstat0], let s := at_ i
    (matrixReads i s).isSome = true ∧ Ready i s ∧ s.wave.mcmds = [] ∧ queuedMatrix s < 8 ∧ tilesFree s (tilesOf i) = true ∧
    isDry s.wave i = false := by unfold Ready; decide +kernel
theorem meets_matrix_dry : ∀ i ∈ [mmI, .mmad c0 { mmX with aty := 12, bty := 15 }], let s := at_ i
    (matrixReads i s).isSome = true ∧ Ready i s ∧ tilesFree s (tilesOf i) = true ∧ isDry s.wave i = true := by unfold Ready; decide +kernel
/-- Stream A0 holds four entries of zeros, B0 and the metadata queue 0 one each. -/
def fed (s : State) : State :=
  { s with wave := { s.wave with mstreams := [
    { kind := 0, name := 0, entries := List.replicate 4 (List.replicate 1024 0), owed := 0, zeros := false }, { kind := 1, name := 0, entries := [List.replicate 1024 0], owed := 0, zeros := false },
    { kind := 2, name := 0, entries := [List.replicate 512 0], owed := 0, zeros := false }] } }
theorem meets_matrix_fed : ∀ i ∈ [mmI, .mmad c0 { mmX with aty := 12, bty := 15 }, .mmas c0 { mmX with aty := 12, bty := 12 }], let s := fed (at_ i)
    Ready i s ∧ isDry s.wave i = false := by unfold Ready; decide +kernel
theorem meets_residual_index : let f : RF := { c0 with a := .v 8, b := .v 9, ty := 10 }
    let s := v 9 63 256 (at_ (.mres f))
    Ready (.mres f) s ∧ 63 < s.wave.width ∧ (256 ≤ src32 s f.b 63 && src32 s f.b 63 != 0xFFFFFFFF) = true ∧
    (∀ l, l < 64 → (at_ (.mres f)).wave.width = 64 ∧ src32 (at_ (.mres f)) f.b l = 0) := by unfold Ready; decide +kernel
/-- A matrix instruction queued in the wave. -/
def stepping (i : Instr) : State := run i (fed (at_ i))
theorem meets_k_step : ∀ i ∈ [mmI, .mzero mzF, .mrd { c0 with d := 8, ty := 10 }, .mwr { c0 with a := .v 8, ty := 10 }, mstat0], let s := stepping i
    (nextWave 63 (startable s 0 0 0)).map (·.uid) = some 0 ∧ ((findDie s 0).rr.find? fun r => r.1 == 0) = none ∧
    nextWave 63 (startable s 0 0 0) = some (focusWave 0 s).wave ∧ (focusWave 0 s).wave.mcmds.map (·.instr) = [i] ∧
    (∀ c ∈ (focusWave 0 s).wave.mcmds, reservedRows (focusWave 0 s).wave c = 0 ∧
      ∀ n ∈ tilesOf c.instr, (findTile (focusWave 0 s).wave n).isSome = true) := by decide +kernel
theorem meets_k_step_reserved : let i := Instr.mma c0 { mmX with sdb := true, aty := 0, bty := 0 }
    let s := fed (at_ i)
    let s := run i { s with wave := { s.wave with mode := s.wave.mode ||| 0x80 } }
    nextWave 63 (startable s 0 0 0) = some (focusWave 0 s).wave ∧
    (∀ c ∈ (focusWave 0 s).wave.mcmds, reservedRows (focusWave 0 s).wave c ≠ 0 ∧ c.mode.getLsbD 7 = true) ∧
    (focusWave 0 s).wave.mcmds.length = 1 ∧ (findCtx s 0).map (·.state) = some .running := by decide +kernel

def txF : RF := { r0 with d := 16, a := .v 4, b := .v 5, c := .imm 0, ty := 10 }
def txX : TexX := { img := 10, smp := 12 }
/-- The image of chapter 16's example at 0x10100: base 0x10400, 2 by 1, pitch 64, UN8X4, one level; its sampler at 0x10200. -/
def imaged (s : State) : State :=
  sr 10 0x10100 (sr 12 0x10200 (mem 0x20100 (bytesOf 8 0x10400 ++ bytesOf 2 1 ++ bytesOf 2 0 ++ bytesOf 4 64 ++ [0x11])
    (mem 0x20200 [1, 1] (mem 0x20400 [0, 0, 0, 255, 255, 128, 0, 255] s))))
def imgN : Nat := natOfBytes (bytesOf 8 0x10400 ++ bytesOf 2 1 ++ bytesOf 2 0 ++ bytesOf 4 64 ++ [0x11])
theorem meets_texture : let i := Instr.tex txF txX
    let s := lanes 1 (imaged (at_ i))
    let ls := (Mask.lanes (actOf s txF)).map (fun l => (l, srcBits s 10 txF.a l, srcBits s 10 txF.b l, laneLambda s txF false (imgOf imgN) 0x101 l))
    Ready i s ∧ actOf s txF ≠ 0#64 ∧ texQueued s < 16 ∧ texWaits s false (actOf s txF) = false ∧ (rdS64 s 10).toNat % 32 = 0 ∧
    (rdS64 s 12).toNat % 16 = 0 ∧ (plainReads false [] [(0, 0x10100, 32), (0, 0x10200, 16)] (issued i s)).2 = [.val imgN, .val 0x101] ∧
    imgClean imgN = true ∧ smpClean 0x101 = true ∧
    (match probe s s.wave.die s.wave.ctx (texelSize (imgOf imgN).fmt) (wantOf s true false [])
      (ls.flatMap fun y => (texAddrs (imgOf imgN) 0x101 y.2.1 y.2.2.1 y.2.2.2).map fun a => (y.1, a)) with | .ok k => k.length | _ => 0) ≠ 0 := by
  unfold Ready; decide +kernel
theorem meets_texture_other : let i := Instr.tex { txF with k := 1 } txX
    let j := Instr.texg { txF with c := .v 0 } txX
    Ready i (at_ i) ∧ actOf (at_ i) { txF with k := 1 } = 0#64 ∧ Ready j (imaged (at_ j)) ∧
    (let s := sr 10 0x10300 (imaged (at_ j));
      (plainReads false [] [(0, 0x10300, 32), (0, 0x10200, 16)] (issued j s)).2 = [.val 0, .val 0x101] ∧ imgClean 0 = false) ∧
    smpClean 3 = false ∧ (plainReads false [] [(0, 0x10100, 32), (0, 0x10200, 16)] (issued j (mem 0x20200 [3, 0] (imaged (at_ j))))).2 = [.val imgN, .val 3] := by unfold Ready; decide +kernel
def tqF : RF := { c0 with sc := true, d := 4, a := .s 10, b := .imm 0xF }
theorem meets_texture_query : let s := imaged (at_ (.texq tqF))
    let g : RF := { tqF with b := .s 20 }
    Ready (.texq tqF) s ∧ src32 s tqF.b 0 = 15 ∧ texQueued s < 16 ∧ texWaits s true 0 = false ∧
    (plainReads true [] [(0, (rdS64 s 10).toNat, 32)] (issued (.texq tqF) s)).2 = [.val imgN] ∧ imgClean imgN = true ∧
    Ready (.texq g) (sr 20 16 (at_ (.texq g))) ∧ src32 (sr 20 16 (at_ (.texq g))) g.b 0 = 16 := by unfold Ready; decide +kernel
def textured : State := run (.tex txF txX) (lanes 1 (v 4 0 0x3E99999A (v 5 0 0x3F000000 (imaged (at_ (.tex txF txX))))))
theorem meets_texture_complete : let s := textured
    let p := pend0 s
    findPending s p.id = some p ∧ p.kind = .texture ∧ p.thread = false ∧ p.scalar = false ∧ p.ndst = 4 ∧
    (findWave p.uid s).map (·.live) = some true ∧ ((texLanes (p.args.drop 2)).map (·.1)) = [0] ∧
    inTurn s p (· == .texture) = true ∧ s.raw = [] ∧
    (∀ a ∈ p.lanes, copyOwns s a.key 4 = false ∧ a.key < 2 ^ 80 ∧ placeHeld a.key = true ∧ slotOf s (some p.team) a.va = none) ∧ (∀ t ∈ s.teams, t.dirty = []) := by
  decide +kernel
/-- The bilinear sample of chapter 16: its words and its four channels. -/
theorem test_bilinear : let t := run (.textureComplete (pend0 textured).id) textured
    encode (.tex txF txX) = [0xF00001001005A028#64, 0x0000000000000C0A#64] ∧
    (List.range 4).map (fun n => vAt t (16 + n) 0) = [0x3DD00000, 0x3D50D0D2, 0, 0x3F800000] := by decide +kernel

/-- A code object at 0x10000: one section of D-code at byte 256, its block of one NOP, and one kernel that starts there. -/
def objBytes : List Byte :=
  bytesOf 4 0x41454441 ++ bytesOf 2 1 ++ bytesOf 2 0 ++ bytesOf 4 0 ++ bytesOf 2 1 ++ bytesOf 2 0 ++ bytesOf 8 64 ++ bytesOf 8 96 ++
  bytesOf 4 1 ++ bytesOf 4 0 ++ bytesOf 8 0 ++ bytesOf 8 272 ++ bytesOf 8 0 ++
  bytesOf 4 1 ++ bytesOf 4 0 ++ bytesOf 8 256 ++ bytesOf 8 16 ++ bytesOf 8 0 ++
  bytesOf 8 0 ++ bytesOf 8 0 ++ bytesOf 8 (2 ^ 64 - 1) ++ bytesOf 2 64 ++ [64, 1] ++ bytesOf 2 0 ++ [0, 0] ++ bytesOf 8 0 ++ bytesOf 24 0 ++
  bytesOf 96 0 ++ bytesOf 8 (0xB#4 ++ 1#8 ++ 0#30 ++ 0#6 ++ crc16 (bytesOf 8 0) : W64).toNat ++ bytesOf 8 0
def ver0 : Version :=
  { id := 0, va := 0x10000, size := 272, compat := 0, next := none, retired := false, freed := false, native := false, obj := objBytes }
def grid0 : Grid :=
  { uid := 0, gid := 1, ctx := 0, depth := 9, parent := none, raster := false, teams := 1, unplaced := [], ver := 0, entryD := 0x2020,
    entryL := 0, lcore := false, regs := 64, width := 64, waves := 1, stash := 0, regsL := 0, widthL := 0, winva := 0, args := 0, seed := 0,
    coop := false, prio := 0, start := 0, released := 0, queue := none, done := 0, rel := 0 }
/-- The object is mapped and registered, and the wave's grid is its kernel's. -/
def withObject (s : State) : State :=
  { (mem 0x20000 objBytes s) with grids := [grid0], ctxs := s.ctxs.map fun c => { c with vers := [ver0] } }
theorem meets_object : objectOk objBytes = true ∧ compatOf objBytes = some 0 ∧ publishError objBytes = none := by decide +kernel
def rsF : RF := { c0 with sc := true, d := 4, a := .s 10 }
def rsX : RastX := { noemit := false, rule := 0, kind := 1 }
/-- A raster descriptor at 0x10800: ENTRY 0x10100, items at 0x10A00, one of them, CLIP 16 by 16, no statistics. -/
def rastBytes : List Byte :=
  bytesOf 8 0x10100 ++ bytesOf 8 0x10A00 ++ bytesOf 2 1 ++ bytesOf 2 0 ++ bytesOf 4 0 ++ bytesOf 2 0 ++ bytesOf 2 0 ++ bytesOf 2 16 ++ bytesOf 2 16 ++
  bytesOf 32 0
/-- The item: the triangle (0, 0), (0, 16), (16, 16), in 24.8 fixed point. -/
def rastState : State :=
  sr 10 0x10800 (mem 0x20800 rastBytes (mem 0x20A00 (bytesOf 8 0 ++ bytesOf 4 0 ++ bytesOf 4 4096 ++ bytesOf 4 4096 ++ bytesOf 4 4096)
    (withObject (at_ (.rast rsF rsX)))))
theorem meets_rast : let s := rastState
    Ready (.rast rsF rsX) s ∧ (plainRead (issued (.rast rsF rsX) s) true [] 0 (rdS64 s 10).toNat 64 64).2 = .val (natOfBytes rastBytes) ∧
    bytesAt (bytesOf 64 (natOfBytes rastBytes)) 0x12 2 = 0 ∧ bytesAt (bytesOf 64 (natOfBytes rastBytes)) 0x24 4 = 0 ∧
    bytesAt (bytesOf 64 (natOfBytes rastBytes)) 0x30 16 = 0 ∧ bytesAt (bytesOf 64 (natOfBytes rastBytes)) 8 8 % 32 = 0 ∧
    bytesAt (bytesOf 64 (natOfBytes rastBytes)) 0x28 8 = 0 ∧ (findGrid s s.wave.grid).map (·.depth) = some 9 ∧
    (entryKern s s.wave 0x10100).isSome = true ∧ rastQueued s s.wave.die < 8 := by unfold Ready; decide +kernel
theorem meets_rast_reserved : let s := mem 0x20812 [1] rastState
    Ready (.rast rsF rsX) s ∧ (match (plainRead (issued (.rast rsF rsX) s) true [] 0 (rdS64 s 10).toNat 64 64).2 with
      | .val n => bytesAt (bytesOf 64 n) 0x12 2 | _ => 0) = 1 := by unfold Ready; decide +kernel
/-- The batch queued; after phase 1; after its tile. -/
def rasting : State := run (.rast rsF rsX) rastState
def batch0 (s : State) : Batch := (findDie s 0).raster.headD default
def celled : Batch := ((readItems 0 1 0 (batch0 rasting) rasting).2).getD default
theorem meets_phase1 : let s := rasting
    let b := batch0 s
    rastHead s 0 = some b ∧ b.phase = 0 ∧ (∀ q ∈ s.pend, q.uid = b.uid → q.thread = false → q.id < b.id → isAccess q.kind = false) ∧
    b.fld 0x10 2 = 1 ∧ (readItems 0 (b.fld 0x10 2) 0 b s).2.isSome = true ∧ celled.items = 1 ∧ celled.cells ≠ [] := by decide +kernel
def tiled : State := onBatch 0 (batch0 rasting).id (fun _ => { celled with phase := 1, tiles := [(0, 0)] }) rasting
theorem meets_tile : let b := batch0 tiled
    rastHead tiled 0 = some b ∧ b.tiles = [(0, 0)] ∧ b.phase = 1 ∧ b.quads = [] := by decide +kernel
def quadded : State :=
  onBatch 0 (batch0 tiled).id (fun b => { b with tiles := [], quads := [b.quadRecs 0 0 0 [131072, 0, 0, 0]] }) tiled
theorem meets_quad : let b := batch0 quadded
    rastHead quadded 0 = some b ∧ b.quads.length = 1 ∧ (∀ q ∈ b.quads, q ≠ []) ∧ (batchKern quadded 0 b).isSome = true ∧
    binRoom quadded 0 b.grid 4 [rastKey (b.fld 0 8)] = true := by decide +kernel
theorem meets_batch_complete : let s := onBatch 0 (batch0 quadded).id (fun b => { b with quads := [] }) quadded
    let b := batch0 s
    rastHead s 0 = some b ∧ b.phase = 1 ∧ b.tiles = [] ∧ b.quads = [] ∧ (∀ t ∈ s.teams, t.dirty = []) ∧ b.statKey = none ∧
    (match findPending s b.id with | some p => (p.thread, p.scalar, (findWave p.uid s).map (·.live)) | none => (true, false, none)) =
      (false, true, some true) := by decide +kernel

/-! ### The statements' hypotheses are met: queues, placement, retirement -/

/-- The module is READY; queue 63 of die 0 is attached with a ring of 16 at 0x10800; the code object is registered. -/
def ready (s : State) : State := { s with plat := { Platform.off with dev := .ready, powered := true, bar2 := 16, fitted := [1, 2, 3] } }
def queue0 (st : QState) (ridx : Nat) (pkt : List Byte) : Queue :=
  { slot := 63, qdesc := 0x10C00, ctx := some 0, ring := 0x10800, ctrl := 0x44, state := st, ridx := ridx, doorbell := 9, pkt := pkt,
    latched := [], abort := 0, code := 0, holds := none }
/-- The context may use core 0 of die 0 alone, and has a stash window of one span with its array at 0x10F00. -/
def placeable (s : State) : State :=
  mem 0x30000 (bytesOf 8 (2 ^ 63 + 0x40000)) (mem 0x300A0 (bytesOf 8 (2 ^ 63 + 0x50000))
    (desc 0x0A8 8 0x30000 (desc 0x0C0 8 0x100000 (desc 0x0C8 8 0x10000 (desc 0x0D0 8 0x10F00 s)))))
def queued0 (q : Queue) : State := { (ready (withObject (at_ (.nop c0)))) with queues := [q] }
/-- A packet of 64 bytes: its header, CTL, and four 8-byte words from byte 8 on. -/
def packet (h ctl a b c d : Nat) : List Byte := bytesOf 4 h ++ bytesOf 4 ctl ++ bytesOf 8 a ++ bytesOf 8 b ++ bytesOf 8 c ++ bytesOf 8 d ++ bytesOf 24 0
theorem meets_doorbell : let s := queued0 (queue0 .idle 0 [])
    afterReady s = true ∧ findQueue s 63 = some (queue0 .idle 0 []) ∧ (queue0 .idle 0 []).ctx ≠ none ∧
    findQueue { s with queues := [{ queue0 .disabled 0 [] with ctx := none }] } 63 = some { queue0 .disabled 0 [] with ctx := none } := by
  decide +kernel
def descB (en : Nat) : List Byte := bytesOf 8 0x10800 ++ bytesOf 4 en ++ bytesOf 20 0
theorem meets_attach : ∀ en ∈ [4, 0x44], let s := mem 0x20C00 (descB en) { (queued0 (queue0 .disabled 0 [])) with queues := [{ queue0 .disabled 0 [] with ctx := none }] }
    let q : Queue := { newQueue 63 with qdesc := ((findQueue s 63).map (·.qdesc)).getD 0, ctx := some 0 }
    let u := onQueue 63 (fun _ => q) (touchQueue 63 s)
    afterReady s = true ∧ (findCtx s 0).isSome = true ∧ (engineRead u q.die 0 (extend52 q.qdesc.toNat) 32 rdWant).2 = (.ok, descB en) := by
  decide +kernel
theorem meets_kick : ∀ en ∈ [4, 0x44], let s := mem 0x20C00 (descB en) (queued0 (queue0 .idle 0 []))
    findQueue s 63 = some (queue0 .idle 0 []) ∧ (engineRead s (queue0 .idle 0 []).die 0 0x10C00 32 rdWant).2 = (.ok, descB en) := by
  decide +kernel
theorem meets_fetch_mismatch : let x := queue0 .fetch 1 []
    let s := queued0 x
    runningQueue s 0 63 = some (x, 0) ∧ wantsFetch x = true ∧ (∀ y ∈ s.queues, y.die = 0 → wantsFetch y = true → queuePri y ≤ queuePri x) ∧
    (readSlot x 0 s).2 = (some (bytesOf 64 0), false) ∧ bitsOf (bytesAt (bytesOf 64 0) 0 4) 31 16 ≠ x.ridx % 65536 := by decide +kernel
theorem meets_fetch_bad : let x := queue0 .fetch 0 []
    let s := mem 0x20800 [5] (queued0 x)
    runningQueue s 0 63 = some (x, 0) ∧ wantsFetch x = true ∧ (readSlot x 0 s).2 = (some (packet 5 0 0 0 0 0), false) ∧
    bitsOf (bytesAt (packet 5 0 0 0 0 0) 0 4) 31 16 = x.ridx % 65536 ∧ 5 ≤ pktType { x with pkt := packet 5 0 0 0 0 0 } := by decide +kernel
theorem meets_fetch_clean : let x := queue0 .fetch 0 []
    let b := packet 1 1 0x10060 0 0 0
    let s := placeable (mem 0x20800 b (queued0 x))
    let y := { x with pkt := b }
    runningQueue s 0 63 = some (x, 0) ∧ wantsFetch x = true ∧ (readSlot x 0 s).2 = (some b, false) ∧ pktType y = 1 ∧ packetClean y = true ∧
    (checkAddrs y.die 0 (packetAddrs y) (readSlot x 0 s).1).2 = some true ∧
    dispatchError (checkAddrs y.die 0 (packetAddrs y) (readSlot x 0 s).1).1 0 y = none ∧
    assist (checkAddrs y.die 0 (packetAddrs y) (readSlot x 0 s).1).1 0 1 = false := by decide +kernel
theorem meets_seqwait : let x := queue0 .seqwait 0 []
    let s := queued0 x
    runningQueue s 0 63 = some (x, 0) ∧ (readSlot x 0 s).2 = (some (bytesOf 64 0), false) ∧ bitsOf (bytesAt (bytesOf 64 0) 0 4) 31 16 = x.ridx % 65536 := by decide +kernel
theorem meets_hold_over : let x := queue0 .hold 9 []
    let y := queue0 .idle 8 []
    (runningQueue (queued0 x) 0 63 = some (x, 0) ∧ x.state = .hold ∧ x.holds = none) ∧
    (runningQueue (queued0 y) 0 63 = some (y, 0) ∧ y.ridx < y.doorbell) := by decide +kernel
theorem meets_wait_list : ∀ y ∈ [0, 1, 2 ^ 63], let x := queue0 .depwait 0 (packet 2 0 0x10E00 0 0 0)
    let s := mem 0x20E00 (bytesOf 8 y) (queued0 x)
    runningQueue s 0 63 = some (x, 0) ∧ waitList x = [(0, 0x10E00)] ∧ x.latched = [] ∧ (engineRead s x.die 0 0x10E00 8 rdWant).2 = (.ok, bytesOf 8 y) := by decide +kernel
theorem meets_start_at_once : let x := queue0 .start 0 (packet 0 0 0 0 0 0)
    let y := queue0 .depwait 0 (packet 2 0 0 0 0 0)
    runningQueue (queued0 x) 0 63 = some (x, 0) ∧ pktType x = 0 ∧ runningQueue (queued0 y) 0 63 = some (y, 0) ∧ pktType y = 2 ∧ waitList y = [] := by
  decide +kernel
theorem meets_dispatch : ∀ h ∈ [1, 0x11], let x := queue0 .start 0 (packet h 2 0x10060 0 0 0)
    let s := queued0 x
    runningQueue s 0 63 = some (x, 0) ∧ pktType x = 1 ∧ descOwned s 0 = false ∧ (kernelNamed (reloadDesc 0 s) 0 (pktN x 8 8)).map (fun k => (k.1, k.2.coop)) = some (ver0, false) ∧
    (findCtx (reloadDesc 0 s) 0).isSome = true ∧ bitAt (pktN x 0x24 4) 0 = false ∧ pktB x = (h == 0x11) := by decide +kernel
/-- A COPY packet: four n32 elements from 0x10A00 to 0x10B00. -/
def copyPkt : List Byte := packet 3 2 0x10A00 0x10B00 (4 + 4 * 2 ^ 32) 4
theorem meets_copy_packet : let x := queue0 .start 0 copyPkt
    let s := queued0 x
    runningQueue s 0 63 = some (x, 0) ∧ pktType x = 3 ∧ s.tags.find? (fun y => y.queue == some (64 * 0 + 63) && y.state == .fault) = none ∧
    (∀ y ∈ s.queues, y.die = x.die → y.state = .start → pktType y = 3 → pktPri s y ≤ pktPri s x) ∧ courierRoom s x.die = some (0, 0) ∧
    copyAligned (packetCopy x 0 s.nextId) = true ∧
    placesOf s x.die 0 dstWant (destPieces (packetCopy x 0 s.nextId)) = .ok [(0x20B00, 4), (0x20B04, 4), (0x20B08, 4), (0x20B0C, 4)] ∧
    pktN x 0x30 8 = 0 ∧ placesOf s x.die 0 sigWant [] = .ok [] := by decide +kernel
theorem meets_signal : ∀ ctl ∈ [0, 1], let x := queue0 .start 0 (packet 4 ctl 0x10E00 3 0 0)
    let s := queued0 x
    runningQueue s 0 63 = some (x, 0) ∧ pktType x = 4 ∧
    (reach s x.die 0 (pktN x 8 8) 8 (if pktN x 4 4 == 1 then rwWant else { wrWant with refused := noMmio })).2 = .ok 0x20E00 ∧
    placeHeld 0x20E00 = true ∧ s.raw = [] ∧ (∀ t ∈ s.teams, t.dirty = []) ∧ bitAt (pktN x 0x18 4) 31 = false := by decide +kernel
theorem meets_done : (queued0 (queue0 .idle 0 [])).owed = [] ∧ (reach (queued0 (queue0 .idle 0 [])) 0 0 0x10E00 8 rwWant).2 = .ok 0x20E00 := by decide +kernel

/-- A context with a grid of one team yet to be placed; a bin of 65 records of one word. -/
def unplaced : State :=
  let s := placeable (ready (withObject (at_ (.nop c0))))
  { s with wave := Wave.noWave, teams := [], grids := [{ grid0 with uid := 5, unplaced := [(0, 0)], start := 5 }] }
theorem meets_team_placement : (placeNext unplaced 0 priorities).map (fun p => p.1) = some (.team { grid0 with uid := 5, unplaced := [(0, 0)], start := 5 } 0) ∧
    grid0.coop = false := by decide +kernel
def bin0 : Bin :=
  { num := 255, die := 0, parent := 5, entry := 0x10100, child := 6, recs := (List.range 65).map fun n => { words := [BitVec.ofNat 32 n], age := 0 }, timed := false }
def binned : State :=
  { unplaced with grids := [{ grid0 with uid := 5, released := 1 }, { grid0 with uid := 6, parent := some 5, depth := 10, teams := 0 }], bins := [bin0] }
theorem meets_bin_placement : (placeNext binned 0 priorities).map (fun p => p.1) = some (.bin bin0) ∧
    (findGrid binned bin0.child).map (fun g => decide (g.wwidth ≤ 64)) = some true ∧
    (∀ x ∈ binned.bins, x.die = bin0.die → x.num = bin0.num → x = bin0) := by decide +kernel
theorem meets_bin_timer : let s : State := { binned with
      bins := [{ bin0 with recs := [{ words := [1], age := 500 }] }],
      ctxs := binned.ctxs.map fun c => { c with desc := c.desc.set 0x0C 1 } }
    let b : Bin := { bin0 with recs := [{ words := [1], age := 500 }] }
    findBin s 0 255 = some b ∧ (findGrid s b.child).isSome = true ∧ ctxRuns s 0 = true ∧ binTimer s 0 = 500 ∧ b.oldest = 500 := by decide +kernel
theorem meets_team_retire : let s : State := { (at_ (.nop c0)) with wave := Wave.noWave }
    (findTeam s 0).map (fun x => (ctxRuns s x.ctx, teamTags s x, teamBusy s x)) = some (true, [], false) ∧ allWaves s = [] ∧
    (findTeam s 0).map (fun x => (x.dirty, decide ((mapWindow false x s).2 ≠ .wait))) = some ([], true) := by decide +kernel
theorem meets_team_retire_fault : let y : Tag := { die := 0, core := 0, tag := 63, state := .fault, team := some 0, queue := none, fault := none, copy := none }
    let s : State := { (at_ (.nop c0)) with wave := Wave.noWave, tags := [y] }
    (findTeam s 0).map (fun x => teamTags s x) = some [y] ∧ allWaves s = [] := by decide +kernel
theorem meets_grid_retire : let s : State := { unplaced with grids := [{ grid0 with uid := 5, queue := some 63 }], queues := [{ queue0 .hold 1 [] with holds := some 5 }] }
    findGrid s 5 = some { grid0 with uid := 5, queue := some 63 } ∧ gridDone s { grid0 with uid := 5, queue := some 63 } = true ∧ ctxRuns s 0 = true ∧
    findQueue s 63 = some { queue0 .hold 1 [] with holds := some 5 } := by decide +kernel

/-! ### The statements' hypotheses are met: traps, the sequencer, system instructions -/

/-- A SOFT trap raised under a context descriptor. -/
def trapState (pre : State → State) : State := run (.trap i0) (pre (at_ (.trap i0)))
def focusTrap (s : State) : State := { focusWave 0 s with acc := false }
/-- Where a trap of the split in focus goes: the host, a handler. -/
def route (s : State) : Option (Bool × Bool) :=
  let u := focusTrap s
  let v := { u with wave := u.wave.focus u.wave.cur.idx }
  v.wave.cur.trap.map fun tr => (goesToHost v v.wave v.wave.cur tr, goesToHandler v v.wave v.wave.cur tr)
def deliverable (s : State) : Bool :=
  let u := focusTrap s
  u.wave.live && u.wave.uid == 0 && ctxRuns u u.wave.ctx && u.wave.parked == none && !anyHandler u.wave &&
  lowestTseq u.wave (trapped u u.wave) == some u.wave.cur && (u.wave.focus u.wave.cur.idx).cur == u.wave.cur
theorem meets_trap_fatal : deliverable (trapState id) = true ∧ route (trapState id) = some (false, false) := by decide +kernel
/-- The SOFT cause is routed to a handler at 0x2000 (Table 14.9). -/
def routed (s : State) : State := desc 0x150 8 (2 ^ 63 + 0x2000) s
theorem meets_trap_handler : deliverable (trapState routed) = true ∧ route (trapState routed) = some (false, true) ∧
    entryOwed (focusTrap (trapState routed)) = false ∧
    (let v := focusTrap (trapState routed); ∀ i, i < 67 → ∀ j, j < 64 → placeHeld (frameKey v v.wave + (64 * i + j)) = true) := by decide +kernel
theorem meets_trap_owed : let s := trapState fun s => let s := routed s; { s with wave := { s.wave with vEmpty := [16 * 15] } }
    deliverable s = true ∧ route s = some (false, true) ∧ entryOwed (focusTrap s) = true := by decide +kernel
/-- A page fault under ASSIST bit 0, its cause resolvable. -/
theorem meets_trap_host : let s := run (.ld m0) (sr 2 0x20000 (desc 0x008 4 1 (desc 0x190 8 (2 ^ 63) (at_ (.ld m0)))))
    deliverable s = true ∧ route s = some (true, false) := by decide +kernel
theorem meets_hret : ∀ hdr ∈ [false, true], ∀ skip ∈ [false, true], let f : RF := { c0 with md := if skip then 1 else 0 }
    let s := at_ (.hret f)
    let h : Handler := { frame := 0, mask := 0xFFFFFFFFFFFFFFFF, blk := none, work := .none, hdr := hdr, posted := none, pc := 0 }
    let t : State := { s with wave := { s.wave with cur := { s.wave.cur with h := true, handler := some h } } }
    Ready (.hret f) t ∧ t.wave.cur.handler = some h ∧ handlerOwes t = false ∧ skipAllowed h.work t.wave = true ∧
    (∀ x ∈ t.teams, x.dirty = []) ∧ frameKey t t.wave = frameKey (at_ (.nop c0)) (at_ (.nop c0)).wave ∧
    frameKey t t.wave + 4288 ≤ 2 ^ 80 ∧ t.raw = [] := by unfold Ready; decide +kernel
theorem meets_hret_frame : let b := frameKey (at_ (.nop c0)) (at_ (.nop c0)).wave
    ∀ i, i < 67 → ∀ j, j < 64 → placeHeld (b + (64 * i + j)) = true := by decide +kernel

def noRj : RjRec := { addr := 0, late := false, mask := 0 }
theorem meets_rejoin_timeout : let s := recorded false (at_ (.rjoin rj0))
    let s : State := { s with wave := { s.wave with cur := { s.wave.cur with state := .rjwait } } }
    let u := focusSplit 0 0 s
    u.wave.cur.idx = 0 ∧ u.wave.cur.mask ≠ 0#64 ∧ u.wave.cur.state = .rjwait ∧ u.wave.cur.deadline = 0#32 ∧ ctxRuns u u.wave.ctx = true ∧
    u.wave.cur.rj.length = 1 ∧ (u.wave.splits.map (·.idx)).Nodup ∧
    (∀ y ∈ rjMembers u.wave (u.wave.cur.rj.headD noRj).addr u.wave.cur.h, y.stop = false) ∧
    oldest (rjMembers u.wave (u.wave.cur.rj.headD noRj).addr u.wave.cur.h) = some u.wave.cur := by decide +kernel
theorem meets_forced_fuse_event : let s := unfused (at_ fuse0)
    let t := withDef (lanes 0x7FFFFFFFFFFFFFFF s)
    let u := { focusSplit 0 0 s with acc := false }
    let v := { focusSplit 0 0 t with acc := false }
    (u.wave.cur.idx = 0 ∧ u.wave.cur.instr u.wave.isL = some fuse0 ∧ splitRuns u = true ∧ u.wave.cur.fused = false ∧
      needsFuse (expand fuse0) = true ∧ fateOf u fuse0 = none ∧ pendingOf u.wave 0 = none) ∧
    (v.wave.cur.instr v.wave.isL = some fuse0 ∧ splitRuns v = true ∧ fateOf v fuse0 = none ∧ pendingOf v.wave 0 = some owed63) := by
  decide +kernel
/-- Entry 0 waits in FFWAIT, entry 1 at a rejoin point with no deadline, each for the other's lanes. -/
def stuck (st : SplitState) : State :=
  let s := at_ fuse0
  let c := s.wave.cur
  let o : Split := { c with
    idx := 1, mask := 0xFFFFFFFF00000000, born := 9, state := st, deadline := 0xFFFFFFFF, rj := [{ addr := 0x9000, late := false, mask := 0xFFFFFFFFFFFFFFFF }] }
  { s with wave := { s.wave with cur := { c with mask := 0xFFFFFFFF, state := .ffwait }, others := [o] } }
theorem meets_stuck : let u := { focusWave 0 (stuck .rjwait) with acc := false }
    u.wave.uid = 0 ∧ isStuck u = true ∧ (stuckSplit u.wave).map (fun x => (x.idx, x.state)) = some (1, .rjwait) ∧
    (u.wave.splits.map (·.idx)).Nodup ∧ (∀ y ∈ u.wave.others, y.mask ≠ 0#64) := by decide +kernel
theorem meets_stuck_scatter : let s := stuck .ffwait
    let s : State := { s with wave := { s.wave with others := s.wave.others.map fun x => { x with mask := 0x7FFFFFFF00000000 } } }
    let u := { focusWave 0 s with acc := false }
    isStuck u = true ∧ (stuckSplit u.wave).map (fun x => (x.idx, x.state)) = some (0, .ffwait) := by decide +kernel
theorem meets_miss_split : let s := empty15 (at_ (.iadd r0))
    let s : State := { s with wave := { s.wave with cur := { s.wave.cur with missCount := 64 } } }
    let u := { focusSplit 0 0 s with acc := false }
    u.wave.uid = 0 ∧ u.wave.cur.idx = 0 ∧ 64 ≤ u.wave.cur.missCount ∧ missLanes u = some 0x0FFFFFFFFFFFFFFF ∧ freeEntry u = some 1 := by
  decide +kernel
theorem meets_breakpoint : let s := desc 0x238 8 (2 ^ 63 + 0x1001) (at_ (.iadd r0))
    let u := { focusSplit 0 0 s with acc := false }
    u.wave.uid = 0 ∧ u.wave.cur.idx = 0 ∧ bpHit u = true ∧ u.wave.cur.instr u.wave.isL = some (.iadd r0) := by decide +kernel
theorem meets_sleep_expiry : let s := at_ (.nop c0)
    let u := focusSplit 0 0 { s with wave := { s.wave with cur := { s.wave.cur with state := .sleep } } }
    u.wave.uid = 0 ∧ u.wave.cur.idx = 0 ∧ u.wave.cur.mask ≠ 0#64 ∧ u.wave.cur.state = .sleep ∧ u.wave.cur.waitmem = none ∧
    u.wave.cur.sleep = 0 ∧ u.wave.cur.stop = false := by decide +kernel
/-- Lane 63 waits for the word at 0x20000 to differ from `x`. -/
def waiting (x : Nat) : State :=
  let s := at_ (.waitmem m0)
  { s with wave := { s.wave with cur := { s.wave.cur with
      state := .sleep, waitmem := some { lanes := [{ lane := 63, va := 0x10000, key := 0x20000, val := x, cmp := 0 }], size := 4, scalar := false } } } }
theorem meets_latch : ∀ x ∈ [0, 1], let u := { focusSplit 0 0 (waiting x) with acc := false }
    u.wave.uid = 0 ∧ u.wave.cur.idx = 0 ∧ u.wave.cur.state = .sleep ∧ u.wave.cur.stop = false ∧ ctxRuns u u.wave.ctx = true ∧
    (u.wave.cur.waitmem.map fun m => m.lanes.map (·.lane)) = some [63] ∧ readWaits u false 63 0x20000 4 = false ∧
    xlate 4 u u.wave.die u.wave.ctx 0x10000 (wantOf u true false []) = .ok 0x20000 ∧ placeHeld 0x20000 = true ∧ u.raw = [] ∧
    (∀ t ∈ u.teams, t.dirty = []) ∧ slotOf u (some u.wave.team) 0x10000 = none ∧ placeNat u.mem 0x20000 4 = 0 := by decide +kernel
theorem meets_release : let s := at_ (.nop c0)
    let u := focusWave 0 { s with wave := { s.wave with exited := 0xFFFFFFFFFFFFFFFF } }
    u.wave.uid = 0 ∧ releasable u = true ∧ u.bg = [] := by decide +kernel

def mgF (md : BitVec 2) : RF := { c0 with sc := true, d := 4, a := .imm 0x7F, md := md }
/-- An object of both classes whose second D block, at word 2 of its section, is an equivalence point with the L block at unit 0;
its map is empty, and its spill area begins at 0. -/
def eqvBytes : List Byte :=
  let sec (ty off size : Nat) : List Byte := bytesOf 4 ty ++ bytesOf 4 0 ++ bytesOf 8 off ++ bytesOf 8 size ++ bytesOf 8 0
  bytesOf 4 0x41454441 ++ bytesOf 2 1 ++ bytesOf 2 0 ++ bytesOf 4 0 ++ bytesOf 2 4 ++ bytesOf 2 0 ++ bytesOf 8 64 ++ bytesOf 8 192 ++
  bytesOf 4 1 ++ bytesOf 4 0 ++ bytesOf 8 0 ++ bytesOf 8 512 ++ bytesOf 8 0 ++
  sec 1 256 32 ++ sec 2 288 12 ++ sec 3 304 40 ++ sec 4 352 16 ++
  bytesOf 8 0 ++ bytesOf 8 0 ++ bytesOf 8 0 ++ bytesOf 2 64 ++ [16, 1] ++ bytesOf 2 64 ++ [16, 0] ++ bytesOf 8 0 ++ bytesOf 24 0 ++
  bytesOf 8 (0xB#4 ++ 1#8 ++ 0#30 ++ 0#6 ++ crc16 (bytesOf 8 0) : W64).toNat ++ bytesOf 8 0 ++
  bytesOf 8 (0xB#4 ++ 1#8 ++ 0#28 ++ 1#1 ++ 0#1 ++ 0#6 ++ crc16 (bytesOf 8 0) : W64).toNat ++ bytesOf 8 0 ++
  bytesOf 16 0 ++ bytesOf 4 1 ++ bytesOf 12 0 ++ bytesOf 2 1 ++ bytesOf 2 0 ++ bytesOf 4 3 ++ bytesOf 4 2 ++ bytesOf 4 0 ++ bytesOf 8 0 ++ bytesOf 8 0 ++
  bytesOf 16 0
/-- A wave of 16 lanes in the block before the equivalence point, about to execute MIGRATE. -/
def migrating (md : BitVec 2) (eqv : List Byte) : State :=
  let s := withObject (at_ (.migrate (mgF md)))
  let s := mem 0x20000 eqv { s with
    ctxs := s.ctxs.map fun c => { c with vers := [{ ver0 with obj := eqv, size := eqv.length }] }, grids := [{ grid0 with entryD := 0x2020, regsL := 64, widthL := 16, width := 16 }] }
  { s with wave := { s.wave with width := 16, regs := 64, cur := { s.wave.cur with
      mask := 0xFFFF, pc := 0x2021, blk := s.wave.cur.blk.map fun b => { b with hdr := 0x2020, len := 1 } } } }
theorem meets_migrate_same : let s := at_ (.migrate (mgF 1))
    formOk (.migrate (mgF 1)) = true ∧ Ready (.migrate (mgF 1)) s ∧ s.wave.cur.h = false ∧ ((mgF 1).md == 0#2) = s.wave.isL := by unfold Ready; decide +kernel
theorem meets_migrate_parks : let s := migrating 0 eqvBytes
    Ready (.migrate (mgF 0)) s ∧ ((mgF 0).md == 0#2) ≠ s.wave.isL ∧ (s.wave.cur.blk.map fun k => k.endPc false) = some 0x2022 ∧
    (match (fetchBlock (issued (.migrate (mgF 0)) s) false false 0x2022).2 with | .ok b => b.eqv | _ => false) = true ∧
    (equivAt (fetchBlock (issued (.migrate (mgF 0)) s) false false 0x2022).1 s.wave 0x2022).map (·.flags) = some 3 ∧ s.wave.width ≤ 16 ∧ holdsEngine s.wave = false ∧ s.wave.cur.rj = [] ∧
    (parkedTeams (fetchBlock (issued (.migrate (mgF 0)) s) false false 0x2022).1 0).length < 16 := by unfold Ready; decide +kernel
theorem meets_migrate_refused : let s := migrating 0 eqvBytes
    (let t : State := { s with wave := { s.wave with width := 32, cur := { s.wave.cur with mask := 0xFFFFFFFF } } }; Ready (.migrate (mgF 0)) t ∧ 16 < t.wave.width ∧ (equivAt t t.wave 0x2022).isSome = true) ∧
    (let t := withQ (queueOf .none false 0) s; Ready (.migrate (mgF 0)) t ∧ holdsEngine t.wave = true) ∧
    (let t := recorded false s; Ready (.migrate (mgF 0)) t ∧ t.wave.cur.rj.map (fun r => (equivAt t t.wave r.addr).isNone) = [true]) ∧
    (let t := migrating 0 (eqvBytes.set 324 2); Ready (.migrate (mgF 0)) t ∧
      (equivAt t t.wave 0x2022).map (fun e => bitAt e.flags 0) = some false) := by unfold Ready; decide +kernel
/-- The wave parked, and cores 0 and 16 open to the context. -/
def parkedState : State :=
  let s := run (.migrate (mgF 0)) (migrating 0 eqvBytes)
  mem 0x30080 (bytesOf 8 (2 ^ 63 + 0x60000)) (placeable { s with teams := s.teams.map fun t => { t with win := 0x100000 } })
theorem meets_limit : let s := run (.migrate (mgF 0)) (migrating 0 eqvBytes)
    let s : State := { s with wave := { s.wave with parked := s.wave.parked.map fun p => { p with limit := some 0 } } }
    (findTeam s (s.wave.team)).map (fun y => (commitMove y s).isNone) = some true ∧
    (findWave 0 s).map (fun w => (w.live, ctxRuns s w.ctx, w.parked.map (·.limit))) = some (true, true, some (some 0)) := by decide +kernel
theorem meets_move : let s := parkedState
    (findTeam s 0).isSome = true ∧ ((allWaves s).map (·.uid)).Nodup ∧ (findTeam s 0).map (fun x => (movesOf s x).length) = some 1 ∧
    s.teams.length = 1 ∧ s.wave.live = true ∧ s.wave.liveLanes ≠ 0#64 ∧ s.wave.parked.isSome = true ∧ s.grids.map (·.unplaced) = [[]] ∧ s.bins = [] := by decide +kernel

def spF : RF := { c0 with a := .s 10, b := .v 8 }
def spI : Instr := .spawn spF { psz := 0 }
theorem meets_spawn : let s := lanes 0xF (sr 10 0x10100 (withObject (at_ spI)))
    Ready spI s ∧ findGrid s s.wave.grid = some grid0 ∧ grid0.depth < 10 ∧ actOf s spF ≠ 0#64 ∧
    (∀ l ∈ Mask.lanes (actOf s spF), (entryKern s s.wave (spawnEntry spF s l % 2 ^ 52)).isSome = true) ∧
    binRoom s s.wave.die grid0.uid (Mask.lanes (actOf s spF)).length ((Mask.lanes (actOf s spF)).map fun l => spawnEntry spF s l % 2 ^ 52) = true ∧
    (∀ l ∈ Mask.lanes (actOf s spF), spawnEntry spF s l % 2 ^ 52 = 0x10100) ∧ (s.bins.map fun b => (b.die, b.num)).Nodup := by unfold Ready; decide +kernel
theorem meets_spawn_traps : let s := sr 10 0x10104 (withObject (at_ spI))
    let t : State := { s with grids := [{ grid0 with depth := 10 }] }
    let g : RF := { spF with k := 1 }
    (Ready spI s ∧ (Mask.lanes (actOf s spF)).find? (fun j => (entryKern s s.wave (spawnEntry spF s j % 2 ^ 52)).isNone) = some 0) ∧
    (Ready spI t ∧ (findGrid t t.wave.grid).map (·.depth) = some 10) ∧
    (Ready (.spawn g { psz := 0 }) (withObject (at_ (.spawn g { psz := 0 }))) ∧ actOf (at_ spI) g = 0#64) := by unfold Ready; decide +kernel
def pbF : RF := { c0 with sc := true, d := 2, a := .s 10, b := .s 12 }
def pbI : Instr := .publish pbF { stat := 4 }
theorem meets_publish : let s := sr 10 0x10000 (sr 12 4096 (at_ pbI))
    let t := sr 10 0x10000 (sr 12 (2 ^ 24 + 64) (at_ pbI))
    (Ready pbI s ∧ (rdS64 s 10).toNat % 64 = 0 ∧ (rdS s 12).toNat % 64 = 0 ∧ (rdS s 12).toNat ≤ 2 ^ 24 ∧
      placesOf s 0 0 (wantOf s true false []) (pagePieces (rdS64 s 10).toNat (rdS s 12).toNat) = .ok [(0x20000, 4096)]) ∧
    (Ready pbI t ∧ 2 ^ 24 < (rdS t 12).toNat) := by unfold Ready; decide +kernel
theorem meets_tlbinv : ∀ n ∈ [(0 : Nat), 1, 2, 3], let f : RF := { c0 with
        sc := true, a := if n ≤ 1 then .s 10 else .v 0, b := if n == 1 then .s 12 else .v 0, ty := BitVec.ofNat 4 n }
    let s := desc 4 4 2 (at_ (.tlbinv f))
    let t : State := { s with pend := [{ pend0 (sent (.ld m0)) with id := 7 }] }
    (Ready (.tlbinv f) s ∧ (∀ y ∈ s.teams, y.dirty = [])) ∧
    (Ready (.tlbinv f) t ∧ (2 ≤ n → oldAccesses t f.ty.toNat 0 (sPairOf t f.a) (sWordOf t f.b) = [7])) := by
  unfold Ready; decide +kernel
theorem meets_cache_ops : let s := sr 6 64 (homePage (dirtied (atHome (.cwb fl0))))
    let t := sr 6 64 (atHome (.cinv fl0))
    let u := sr 6 63 (atHome (.cinv fl0))
    (Ready (.cwb fl0) s ∧ rangeOf fl0 s = (0x10000, 64) ∧ busyPage s 0 0 0x10000 64 = none ∧
      (∀ y ∈ s.teams, ∀ d ∈ y.dirty, d.key = 0x20000 ∧ d.bytes.length = 64 ∧ placeHeld d.key = true) ∧ s.teams.length = 1 ∧
      linePlaces s 0 0 0x10000 64 = [(0x20000, 64)]) ∧
    (Ready (.cinv fl0) t ∧ ownWrites true t = false ∧ busyPage t 0 0 0x10000 64 = none) ∧ (Ready (.cinv fl0) u ∧ (rangeOf fl0 u).2 % 64 ≠ 0) := by unfold Ready; decide +kernel

/-! ### The statements' hypotheses are met: translation, versions, memory errors -/

theorem meets_walk_missing : let s := at_ (.nop c0)
    let d := ((findCtx s 0).map (·.desc)).getD []
    ctxRuns s 0 = true ∧ inWindow d 0x30000 = false ∧ probeTables s d 0x30000 = .missing := by decide +kernel
/-- The page 0x30, whose entry is BUSY or not. -/
def tabled (busy : Bool) : State := tableEntry 0x30000 (0x800000000003005C + if busy then 2 ^ 62 else 0) 0x90000 (at_ (.nop c0))
theorem meets_walk : ∀ b ∈ [false, true], let s := tabled b
    let d := ((findCtx s 0).map (·.desc)).getD []
    ctxRuns s 0 = true ∧ inWindow d 0x30000 = false ∧
    probeTables s d 0x30000 = (if b then .busy else .pte 0x800000000003005C 0x90000 0 (bucketKey (2 ^ 52 + 0x80000) 0 0x30000 0 0)) ∧ pteBad 0x800000000003005C 0x90000 0 = false ∧
    pteFt 0x800000000003005C = false ∧ pteTgt 0x800000000003005C ≠ 1 ∧ pteWr 0x800000000003005C = true ∧ (∀ t ∈ s.teams, t.dirty = []) ∧
    checkPte s d (fun x => xlate 3 s 0 0 x walkRd) 0 0 0x30000 walkRd 0x800000000003005C 0x90000 0 true = .ok 0x90000 ∧
    (∃ z ∈ s.dies, z.id = 0) ∧ placeHeld (bucketKey (2 ^ 52 + 0x80000) 0 0x30000 0 0) = true ∧ s.raw = [] := by
  decide +kernel
/-- PUBLISH in flight over the mapped object, the code pool at the same page's second half. -/
def publishing (b : List Byte) : State :=
  homePage (desc 0x0B0 8 0x10800 (desc 0x0B8 8 0x800 (run pbI (sr 10 0x10000 (sr 12 512 (withObject (mem 0x20000 b (at_ pbI))))))))
theorem meets_publish_complete : let s := publishing []
    let p := pend0 s
    findPending s p.id = some p ∧ p.kind = .publish 0x10000 512 ∧ p.scalar = true ∧ p.thread = false ∧ p.args = [4] ∧ p.dst = 2 ∧ p.ndst = 2 ∧
    ctxRuns s p.ctx = true ∧ (∀ q ∈ s.pend, q.uid = p.uid → q.thread = false → q.id < p.id → isAccess q.kind = false) ∧
    inTurn s p (fun k => match k with | .publish _ _ => true | _ => false) = true ∧ s.plat.posts = [] ∧
    p.uid = 0 ∧ p.mode.getLsbD 7 = false ∧ (readRange s p.die p.ctx 0x10000 512).2.1 = .ok ∧
    assist (readRange s p.die p.ctx 0x10000 512).1 0 4 = false ∧ assist (readRange (desc 8 4 16 s) p.die p.ctx 0x10000 512).1 0 4 = true ∧
    (findWave p.uid (readRange s p.die p.ctx 0x10000 512).1).map (·.live) = some true := by decide +kernel
theorem meets_publish_verdict : let s := publishing []
    let r := (readRange s 0 0 0x10000 512).1
    let b := (readRange s 0 0 0x10000 512).2.2
    publishError b = none ∧ (findCtx r 0).isSome = true ∧
    (lowestFree (((findCtx r 0).map (·.vers)).getD [] |>.filterMap fun x => if x.freed then none else some (x.va.toNat, x.size)) (descN r 0 0x0B0 8)
      (descN r 0 0x0B0 8 + descN r 0 0x0B8 8) (max 1 (bytesAt b 0x30 8)) 64) = some 0x10800 ∧
    (writeRange r 0 0 0x10800 (b.take (bytesAt b 0x30 8))).2 = .ok ∧
    (findWave 0 (writeRange r 0 0 0x10800 (b.take (bytesAt b 0x30 8))).1).map (·.live) = some true ∧ publishError (bytesOf 512 0) = some (1, 0) := by decide +kernel
theorem meets_version_load : let s := homePage (withObject (at_ (.nop c0)))
    let r := readRange s 0 0 0x10000 64
    (r.2.1 = .ok ∧ max 64 (bytesAt r.2.2 0x30 8) = 272) ∧
    (let u := readRange r.1 0 0 0x10000 272; u.2.1 = .ok ∧ (findCtx u.1 0).isSome = true ∧ objectOk u.2.2 = true ∧ compatOf u.2.2 = some 0) ∧
    (let z := readRange s 0 0 0x10800 64
     let u := readRange z.1 0 0 0x10800 64
     z.2.1 = .ok ∧ max 64 (bytesAt z.2.2 0x30 8) = 64 ∧ u.2.1 = .ok ∧ objectOk u.2.2 = false) ∧ ((some 0).bind (findVer s 0)).map (·.compat) = some 0 := by decide +kernel
theorem meets_unload : let s := withObject (at_ (.nop c0))
    (findCtx s 0).map (·.state) = some .running ∧ (∃ w ∈ allWaves s, w.ctx = 0 ∧ w.ver = 0) ∧ (∀ w ∈ allWaves s, w.ctx = 0 → w.ver ≠ 7) := by decide +kernel
theorem meets_memory_error : let s := sent (.ld m0)
    let s : State := { s with pend := s.pend.map fun p => { p with mode := 0x80 } }
    tgtOfKey (64 * (0x20000 / 64)) = 0 ∧ tgtOfKey (2 ^ 80) = 4 ∧ findPending s (pend0 s).id = some (pend0 s) ∧ isAccess (pend0 s).kind = true ∧
    (findWave (pend0 s).uid s).isSome = true ∧ (findCtx s (pend0 s).ctx).map (·.state) = some .running ∧
    (∃ a ∈ (pend0 s).lanes, rangesMeet a.key (accSize (pend0 s).kind) 0x20000 64 = true) ∧ (pend0 s).mode.getLsbD 7 = true := by decide +kernel

/-! ### The statements' hypotheses are met: halts, images, the host fault queue -/

/-- A machine READY and powered whose context 0 is in a given state of halting. -/
def inState (x : CtxState) (r : Reason) (s : State) : State := let s := ready s
  { s with ctxs := s.ctxs.map fun c => { c with state := x, reason := r } }
def ctx0 (s : State) : Ctx := (findCtx s 0).getD (newCtx 0 0 [])
def base : State := at_ (.nop c0)
theorem meets_halt : descOwned base 0 = false ∧ (findCtx base 0).map (·.state) = some .running ∧ (findCtx (inState .halting .host base) 0).map (·.state) = some .halting := by
  decide +kernel
theorem meets_engine_stop : let s := inState .halting .host base
    let e := Engine.sequencer 0 0 0
    findCtx s 0 = some (ctx0 s) ∧ (ctx0 s).state = .halting ∧ e ∈ ctxEngines s 0 ∧ e ∉ (ctx0 s).acks ∧ engineStopped s 0 e = true ∧ recordOwned s (ctx0 s) e = false ∧
    s.plat.powered = true ∧ writesRecords { s with ctxs := s.ctxs.map fun c => { c with reason := .preempt } } { ctx0 s with reason := .preempt } = false ∧
    (ctxEngines s 0).all (fun e => ({ ctx0 s with acks := ctxEngines s 0 }).acks.contains e) = true := by decide +kernel
theorem meets_swap : let s := inState .swapping .preempt base
    findCtx s 0 = some (ctx0 s) ∧ (ctx0 s).state = .swapping ∧ s.plat.powered = true ∧ (ctx0 s).inc = none ∧ swapWaits s (ctx0 s) = false ∧
    s.wave ∈ allWaves s ∧ s.wave.live = true ∧ s.wave.ctx = 0 ∧ (s.wave.die, s.wave.core) ∈ ctxCores s 0 := by decide +kernel
/-- The context of a wave with a load in flight swapped out. -/
def imagedLoad : State := run (.haltComplete 0) (inState .swapping .preempt (sent (.ld m0)))
theorem meets_owed_reply : let s := imagedLoad
    let p := pend0 s
    findPending s p.id = some p ∧ ctxRuns s p.ctx = false ∧ p.kind = .load 2 ∧ ((p.lanes.head?.map (·.lane)).getD 0) / 4 = 0 ∧
    quadReady s p 0 = true ∧ ((quadLanes p 0).map (·.lane)).Nodup ∧ (∀ t ∈ s.teams, t.dirty = []) ∧
    (∀ a ∈ quadLanes p 0, a.lane < 64 ∧ a.key < 2 ^ 80 ∧ slotOf s (some p.team) a.va = none) ∧ p.scalar = false ∧ p.thread = false ∧
    (∃ i ∈ s.images, ∃ w ∈ i.waves, w.uid = p.uid) := by decide +kernel
theorem meets_resume : let s := inState .halted .host base
    findCtx s 0 = some (ctx0 s) ∧ (ctx0 s).state = .halted ∧ s.plat.powered = true ∧ (ctx0 s).late = [] ∧
    (allWaves s).all (fun w => (findVer s 0 w.ver).isNone) = true ∧ ctxCores s 0 = [(0, 0)] ∧ saveSlot s 0 0 0 = none ∧ (findCtx base 0).map (·.state) = some .running := by decide +kernel
/-- The context's descriptor stands in memory as it was last read. -/
def descHome (s : State) : State := s.ctxs.foldl (fun s c => mem c.descKey c.desc s) s
/-- The context's image, put into the save slots of core 0 and of the die, with 64 bytes each. -/
def savedBy (i : Instr) : State :=
  let s := run (.haltComplete 0) (inState .swapping .preempt (if i = .ld m0 then sent i else at_ i))
  let words := bytesOf 8 64 ++ bytesOf 4 0x10A02 ++ bytesOf 4 0
  mem 0x140000 words (mem 0x150000 words (descHome (placeable { (inState .inSave .preempt s) with
    images := s.images.map fun i => { i with shadow := false } })))
theorem meets_restore : let s := savedBy (.nop c0)
    let v := placeImages 0 (reloadDesc 0 (onCtx 0 (fun y => { y with state := .restoring }) s))
    let t := mem 0x140008 [0xFF] s
    let u := savedBy (.ld m0)
    findCtx s 0 = some (ctx0 s) ∧ (ctx0 s).state = .inSave ∧ s.plat.powered = true ∧ descOwned s 0 = false ∧ imagesFit s 0 = true ∧
    replyOwed s 0 = false ∧ v.images = [] ∧ (∀ w ∈ allWaves v, (findVer v 0 w.ver).all (fun y => !y.freed) = true) ∧
    (ctxDies v 0).any (slotOwned v 0 · 20) = false ∧ v.tags = [] ∧ (findCtx v 0).map (·.late) = some [] ∧
    s.images.length = 1 ∧ imagesFit t 0 = false ∧ imagesFit u 0 = true ∧ replyOwed u 0 = true := by
  decide +kernel
/-- A copy of the context, to be translated again, whose page's entry is BUSY. -/
theorem meets_restore_busy : let s := descHome (tableEntry 0x30000 (0x800000000003005C + 2 ^ 62) 0x90000 (savedBy (.nop c0)))
    let s : State := { s with tags := begun.tags.map fun y => { y with copy := y.copy.map fun c => { c with stale := true, dst := 0x30000 } } }
    let v := placeImages 0 (reloadDesc 0 (onCtx 0 (fun y => { y with state := .restoring }) s))
    descOwned s 0 = false ∧ imagesFit s 0 = true ∧ replyOwed s 0 = false ∧ v.images = [] ∧ (ctxDies v 0).any (slotOwned v 0 · 20) = false ∧
    (restoreCopies 0 v).2 = true := by decide +kernel
/-- No slot is left on the sub-core for the saved wave. -/
theorem meets_restore_waits : let s := savedBy (.nop c0)
    let s : State := { s with wave := base.wave, bg := (List.range 15).map fun n => { base.wave with slot := n + 1, uid := n + 7, ctx := 9 } }
    let s : State := { s with wave := { s.wave with ctx := 9 } }
    let v := placeImages 0 (reloadDesc 0 (onCtx 0 (fun y => { y with state := .restoring }) s))
    imagesFit s 0 = true ∧ replyOwed s 0 = false ∧ ∃ i ∈ v.images, i.ctx = 0 := by decide +kernel
theorem meets_stopwave : (selWave base 0 0).isSome = true ∧ (selWave base 0 0).map (·.uid) = some base.wave.uid ∧
    (selWave base 0 0) = findWave base.wave.uid base ∧ base.wave.live = true := by decide +kernel

/-- A trap of split 0 posted to a ring of two at 0x10800, whose header the host has set up with `ri` read and `wi` written. -/
def posting (idx : Option Nat) (written err : Bool) (wi ri : Nat) : State :=
  let s := trapState fun s => homePage (desc 0x0A0 8 0x10800 (mem 0x20800 (bytesOf 4 1 ++ bytesOf 4 0 ++ bytesOf 8 wi ++ bytesOf 8 ri) s))
  let p : Posted :=
    { die := 0, ctx := 0, uid := s.wave.uid, entry := 0, idx := idx, written := written, err := err,
      trap := (s.wave.cur.trap).getD { cause := 6, sub := 0, mask := 0, addr := 0, pc := 0, pc2 := 0, word0 := 0, word1 := 0, hdr := false } }
  { (ready s) with posted := [p] }
def posted0 (s : State) : Posted := (findPosted s s.wave.uid 0).getD (s.posted.headD default)
theorem meets_hfq_index : ∀ w ∈ [0, 2], let s := posting none false false w 0
    let p := posted0 s
    let r := engineRead s p.die p.ctx (descN s p.ctx 0x0A0 8) 24 unitWant
    let u := reach r.1 p.die p.ctx (descN r.1 p.ctx 0x0A0 8 + 8) 8 unitWant
    findPosted s s.wave.uid 0 = some p ∧ p.idx = none ∧ r.2.1 = .ok ∧ bytesAt r.2.2 8 8 = w ∧ bytesAt r.2.2 0x10 8 + hfqSize r.2.2 = 2 ∧
    u.2 = .ok 0x20808 ∧ placeHeld 0x20808 = true ∧ (∀ t ∈ u.1.teams, t.dirty = []) := by decide +kernel
theorem meets_hfq_entry : let s := posting (some 3) false false 0 0
    let p := posted0 s
    let q : Posted := { p with entry := 1, idx := some 1, written := true }
    let r := engineRead s p.die p.ctx (descN s p.ctx 0x0A0 8) 24 unitWant
    let u := reach r.1 p.die p.ctx (hfqEntry r.1 p r.2.2 3) 64 unitWant
    p.idx = some 3 ∧ p.written = false ∧ r.2.1 = .ok ∧ hfqEntry r.1 p r.2.2 3 = 0x10880 ∧
    r.1.posted.any (fun y => y.ctx == p.ctx && y.idx.any fun j => j < 3 && (3 - j) % hfqSize r.2.2 == 0) = false ∧
    ({ r.1 with posted := [p, q] }).posted.any (fun y => y.ctx == p.ctx && y.idx.any fun j => j < 3 && (3 - j) % hfqSize r.2.2 == 0) = true ∧
    u.2 = .ok 0x20880 ∧ placeHeld 0x20880 = true ∧ placeHeld 0x208B8 = true ∧ (∀ t ∈ u.1.teams, t.dirty = []) := by decide +kernel
theorem meets_hfq_poll : ∀ r ∈ [0, 1, 2], ∀ e ∈ [false, true],
    let s := mem 0x208B8 [BitVec.ofNat 8 r] (posting (some 3) true e 0 0)
    let p := s.posted.headD default
    let h := engineRead s p.die p.ctx (descN s p.ctx 0x0A0 8) 24 unitWant
    let d := engineRead h.1 p.die p.ctx (hfqEntry h.1 p h.2.2 3 + 0x38) 8 unitWant
    let u := focusSplit p.uid p.entry d.1
    findPosted s s.wave.uid (if e then 32 else 0) = some p ∧ p.idx = some 3 ∧ p.written = true ∧ (findCtx s p.ctx).map (·.state) = some .running ∧
    h.2.1 = .ok ∧ d.2.1 = .ok ∧ natOfBytes d.2.2 = r ∧ p.err = e ∧ (findCtx d.1 p.ctx).map (·.state) = some .running ∧
    u.wave.uid = p.uid ∧ u.wave.ctx = p.ctx ∧ u.wave.cur.idx = p.entry ∧ u.wave.cur.work = .none := by decide +kernel
theorem meets_cdesc : let s := mem 0x30001 [1] (ready State.reset)
    afterReady s = true ∧ s.plat.dev = .ready ∧ s.plat.powered = true ∧ (Store.get 0 s.plat.cdesc 256).getLsbD 63 = false ∧
    copyOwns s (cdescKey 0x8000000000030000) 640 = false ∧ cdescKey 0x8000000000030000 % 64 = 0 ∧ bytesAt (cohRead s (cdescKey 0x8000000000030000) 640) 0 4 % 4096 = 256 ∧ findCtx s 256 = none := by
  decide +kernel

/-! ### The statements' hypotheses are met: the host's registers, the mailbox, links, resets, sensors -/

theorem meets_register_write : ∀ off ∈ [0x400, 0x7F0, 0x1000, 0x1FF0, 0x80000, 0x87FF0], let s := ready base
    let data := bytesOf 16 1
    s.plat.dev ≠ .reset ∧ State.reset.plat.dev = .reset ∧
    ((0x400 ≤ off ∧ off + data.length ≤ 0x800) ∨ (0x1000 ≤ off ∧ off + data.length ≤ 0x2000) ∨ (0x80000 ≤ off ∧ off + data.length ≤ 0x88000)) := by
  decide +kernel
theorem meets_mbcmd : ∀ x ∈ [2 ^ 63, 2 ^ 63 + 1, 2 ^ 63 + 9, 2 ^ 63 + 10], bitAt x 63 = true ∧ (ready base).plat.mbGo = false ∧
    (run (.registerWrite 0 0x20 (bytesOf 8 (2 ^ 63 + 1))) (ready base)).plat.mbGo = true := by decide +kernel
theorem meets_after_ready : afterReady (ready base) = true := by decide +kernel
/-- A command in progress with its argument. -/
def commanded (cmd : Nat) (arg : List Byte) : State :=
  run (.registerWrite 0 0x20 (bytesOf 8 (2 ^ 63 + cmd))) (run (.registerWrite 0 0x1000 arg) (ready base))
theorem meets_commands : (∀ c ∈ [1, 2, 3, 4, 5, 6, 7, 8, 9], mbHas c (commanded c []) = true ∧ mbHas c (ready base) = false) ∧
    mbNat (commanded 3 (bytesOf 4 1999)) 0 4 < 2000 ∧ mbNat (commanded 3 (bytesOf 4 2000)) 0 4 = 2000 ∧
    mbNat (commanded 3 (bytesOf 4 21000)) 0 4 = 21000 ∧ 21000 < mbNat (commanded 3 (bytesOf 4 21001)) 0 4 ∧
    4084 < mbNat (commanded 5 (bytesOf 8 0 ++ bytesOf 4 4085)) 8 4 ∧ mbNat (commanded 5 (bytesOf 8 0 ++ bytesOf 4 4084)) 8 4 = 4084 := by
  decide +kernel
theorem meets_readlog : let s := logEvent 5 0 0 0 0 (logEvent 1 0 0 0 0 (commanded 1 (bytesOf 8 1)))
    mbHas 1 s = true ∧ ((((List.range s.plat.log.length).zip s.plat.log).filter fun x =>
      mbNat s 0 8 ≤ s.plat.logNext - s.plat.log.length + x.1)[0]?).map (fun x => (x.1, x.2.kind)) = some (1, 5) := by decide +kernel
/-- Entry 0 of window 0 names context 0's space at address 0. -/
def windowed : State := run (.registerWrite 0 0x400 (bytesOf 16 (2 ^ 64))) (ready base)
theorem meets_bar2 : windowed.plat.dev ≠ .reset ∧ inBar windowed.plat 0 0x10040 = true ∧ inBar (ready base).plat 0 0x10040 = true ∧ windowAt windowed 0 0x10040 = some (0, 0x10040) ∧ windowAt (ready base) 0 0x10040 = none ∧
    (∀ n ∈ [1, 8], pagePieces 0x10040 n = [(0x10040, n)]) ∧
    (∀ n ∈ [1, 8], (reach windowed (attachedDie 0) 0 0x10040 n { rd := true, sup := true }).2 = .ok 0x20040) ∧
    (∀ n ∈ [1, 8], (reach windowed (attachedDie 0) 0 0x10040 n { wr := true, sup := true }).2 = .ok 0x20040) ∧
    placeHeld 0x20040 = true ∧ (reach windowed (attachedDie 0) 0 0x10040 8 { rd := true, sup := true }).1.raw = [] ∧
    ((reach windowed (attachedDie 0) 0 0x10040 8 { rd := true, sup := true }).1.teams.all fun t => t.dirty == []) = true ∧
    ((reach windowed (attachedDie 0) 0 0x10040 8 { wr := true, sup := true }).1.teams.all fun t => t.dirty == []) = true := by decide +kernel

def link (n tx : Nat) (u : List (List Byte)) : Link :=
  { id := n, up := true, rxSeq := 5, txSeq := tx, unacked := u, replays := 15, crc := 0, linkErr := 0, peer := some 77, routes := [], held := [] }
/-- A flit of a TYPE whose other bytes are `b`. -/
def flit (ty : Nat) (b : List Byte) : List Byte :=
  let x := bytesOf 1 ty ++ b ++ List.replicate (251 - b.length) 0
  x ++ bytesOf 4 (crc32c x).toNat
/-- Links 0 and 1 lead to one module; link 0 awaits the acknowledgement of flit 9. -/
def linked : State :=
  let s := ready base
  { s with plat := { s.plat with links := [link 0 10 [flit 1 ([1, 0, 0] ++ bytesOf 4 9)], link 1 3 []], seen := [] } }
def data0 (n seq : Nat) : List Byte := flit 1 (bytesOf 1 n ++ [0, 0] ++ bytesOf 4 seq ++ bytesOf 4 0 ++ [8, 0, 0, 0] ++ bytesOf 4 21)
theorem meets_flit_data : findLink linked 0 = some (link 0 10 [flit 1 ([1, 0, 0] ++ bytesOf 4 9)]) ∧
    crcOk ((data0 1 5).set 20 1) = false ∧ crcOk (flit 2 []) = true ∧ flitOk 1 (flit 2 []) = false ∧
    (∀ n ∈ [0, 1], flitOk 1 (data0 n 5) = true ∧ bytesAt (data0 n 5) 4 4 = 5 ∧ bytesAt (data0 n 5) 1 1 = n) ∧
    flitOk 1 (data0 1 6) = true ∧ bytesAt (data0 1 6) 4 4 ≠ 5 ∧ flitOk 1 (data0 1 4) = true ∧ bytesAt (data0 1 4) 4 4 ≠ 5 ∧
    linked.plat.seen = [] ∧ (∀ t ∈ linked.teams, t.dirty = []) ∧ (∀ y ∈ linked.plat.links, y.held = []) ∧ (linked.plat.links.map (·.id)).Nodup ∧
    slotKey (flitSlot (data0 1 5) 0) = 0 ∧ placeHeld 0 = true ∧ linked.raw = [] ∧ linked.tags = [] := by decide +kernel
/-- A copy owns the line that a request comes to, which then waits. -/
def ownedLine : State := { linked with tags := begun.tags.map fun y => { y with copy := y.copy.map fun c => { c with owned := [(0, 64)] } } }
theorem meets_flit_waits : let b := flitSlot (data0 1 5) 0
    slotWaits linked b none = false ∧ (slotKind b < 4 → slotWaits ownedLine b none = true ∨ slotKind b = 2) := by
  have h : copyOwns linked (slotKey (flitSlot (data0 1 5) 0)) (slotSize (flitSlot (data0 1 5) 0)) = false ∧
      copyOwns linked (64 * (slotKey (flitSlot (data0 1 5) 0) / 64)) 64 = false ∧
      copyOwns ownedLine (slotKey (flitSlot (data0 1 5) 0)) (slotSize (flitSlot (data0 1 5) 0)) = true ∧
      copyOwns ownedLine (64 * (slotKey (flitSlot (data0 1 5) 0) / 64)) 64 = true := by decide +kernel
  obtain ⟨h1, h2, h3, h4⟩ := h
  refine ⟨?_, fun k => ?_⟩
  · simp only [slotWaits, h1, h2, Bool.and_false, ite_self]
  · simp only [slotWaits, h3, h4, Bool.and_true]
    by_cases e : slotKind (flitSlot (data0 1 5) 0) = 3
    · simp [e]
    · simp only [beq_iff_eq, e, ↓reduceIte, decide_eq_true_eq]
      omega
theorem meets_flit_repeat : let b := flitSlot (data0 1 5) 0
    let s : State := { linked with plat := { linked.plat with seen := [(slotSource linked 0 b, 21, [])] } }
    (∃ x ∈ s.plat.seen, x.1 = slotSource s 0 b ∧ x.2.1 = bytesAt b 4 4) ∧
    bytesAt (flit 1 ([1, 0, 0] ++ bytesOf 4 9)) 4 4 ≠ bytesAt (data0 1 5) 8 4 := by decide +kernel
theorem meets_flit_others : let a := flit 2 ([0, 0, 0] ++ bytesOf 4 0 ++ bytesOf 4 9)
    flitOk 2 a = true ∧ ([flit 1 ([1, 0, 0] ++ bytesOf 4 9)].findIdx? fun g => bytesAt g 4 4 == bytesAt a 8 4) = some 0 ∧
    flitOk 3 (flit 3 []) = true ∧ (link 0 10 []).replays < 16 ∧ 16 ≤ ({ link 0 10 [] with replays := 16 }).replays ∧
    (linked.plat.links.find? fun x => x.up && x.id != 0 && sameModule (link 0 10 []) x) = some (link 1 3 []) ∧
    findLink linked 1 = some (link 1 3 []) ∧ flitOk 4 (flit 4 []) = true ∧ linked.plat.dev ≠ .reset := by decide +kernel
theorem meets_resets : State.reset.plat.fwBoot ≤ 1 ∧ (ready base).plat.dev ≠ .reset ∧ mbHas 9 (commanded 9 []) = true ∧
    (commanded 9 []).plat.dev ≠ .reset ∧ (ready base).plat.dev = .ready ∧ (ready base).plat.alarm = false ∧
    0 ∈ (ready base).plat.fwValid ∧ base.pend = [] ∧ base.owed = [] ∧ 1 ∈ (ready base).plat.fitted := by decide +kernel
theorem meets_sensors : let r : Readings := { State.reset.plat.readings with temps := [(0, 96), (1, 89), (2, 92)], flow := Config.choice 21 0, draw := 100 }
    let h : Readings := { r with temps := [(0, 111)] }
    (ready base).plat.powered = true ∧ tripped r = false ∧ r.draw ≤ (ready base).plat.powercap ∧ (r.temps.map (·.1)).Nodup ∧ tripped h = true := by
  refine ⟨by decide +kernel, ?_, by decide +kernel, by decide +kernel, by decide +kernel⟩
  simp [tripped]
theorem meets_running : (findCtx (ready base) 0).map (·.state) = some .running := by decide +kernel
theorem meets_canonical : State.reset.mem.wf = true ∧ (mem 0x20000 [1, 0, 2] State.reset).mem.wf = true ∧
    (∃ t, step { State.reset with agenda := [.event .powerLoss] } = .next t) := ⟨by decide +kernel, by decide +kernel, _, rfl⟩
/-- Vector 5's table entry unmasked while its message is pending (PCI Express: address at 0, data at 8, vector control at 12). -/
theorem meets_msix : let s := { ready base with plat := { (ready base).plat with pba := [5] } }
    let t := run (.registerWrite 0 0x80050 (bytesOf 8 0x1000 ++ bytesOf 4 77 ++ bytesOf 4 0)) s
    s.plat.dev ≠ .reset ∧ msixMasked s.plat 5 = true ∧ msixMasked t.plat 5 = false ∧ t.plat.msgs = [(0x1000, 77)] := by decide +kernel
/-- A module in BOOT whose self-tests have passed. -/
theorem meets_boot : let s := { ready base with agenda := [.boot], plat := { (ready base).plat with dev := .boot, bring := some none } }
    s.agenda = [.boot] ∧ s.plat.dev = .boot ∧ s.plat.alarm = false ∧ s.plat.bring = some none ∧
    (match step s with | .next t => t.plat.dev | _ => .reset) = .ready := by decide +kernel

end Sys2Proof.Tests
end

/-! SUPPORT. The checks before issue, by their outcome, what an instruction answers at each, and the statements O9 and O12. -/
namespace Sys2Proof.Machine
open Sys2Proof

/-! ### What an instruction answers at the outcome of its checks -/

/-- Every instruction has the shared shape of an issue, with its own engine's answer to whether a command can be taken. -/
theorem exec_eq_issueEng (hi : isInstruction i = true) (s : State) :
    ∃ body, exec i s = issueEng (engineFull i) i s body := by
  cases i
  all_goals simp only [isInstruction, expand, encode, bne_self_eq_false, Bool.false_eq_true] at hi
  all_goals dsimp only [exec]
  all_goals exact ⟨_, rfl⟩

/-- An instruction that the checks hold changes nothing (R17). -/
theorem exec_of_hold (hi : isInstruction i = true) (hc : issueCheck i s (engineFull i s) = .hold) : exec i s = .next s := by
  obtain ⟨body, he⟩ := exec_eq_issueEng hi s
  rw [he, issueEng, issueWith, hc]

theorem exec_of_trap (hi : isInstruction i = true) (hc : issueCheck i s (engineFull i s) = .trap r) :
    exec i s = .next (raise r i s) := by
  obtain ⟨body, he⟩ := exec_eq_issueEng hi s
  rw [he, issueEng, issueWith, hc]

/-- A trap that carries a cause, a subcause and a mask alone is the only change of the split that raises it (R165). -/
theorem trapped_raise (hacc : s.acc = false) (cause sub : Nat) (m : Mask) (i : Instr) :
    Trapped s (raise { cause := cause, sub := sub, mask := m } i s) cause sub m 0 i := by
  rw [raise, hacc]
  exact ⟨_, rfl, rfl, rfl, rfl, rfl, rfl, rfl, rfl⟩

theorem exec_trapped_of_trap (hi : isInstruction i = true) (hacc : s.acc = false)
    (hc : issueCheck i s (engineFull i s) = .trap { cause := cause, sub := sub, mask := m }) :
    ∃ t, exec i s = .next t ∧ Trapped s t cause sub m 0 i :=
  ⟨_, exec_of_trap hi hc, trapped_raise hacc cause sub m i⟩

/-! ### The conditions, one by one -/

/-- Does every lane of the wave run in the split, with the instruction's predicate selecting each (R157)? -/
def wholeWave (s : State) (i : Instr) : Bool :=
  s.wave.cur.mask &&& s.wave.all == s.wave.all &&
  (if (predOf i).2.1 then ~~~rdK s (predOf i).1.toNat else rdK s (predOf i).1.toNat) &&& s.wave.all == s.wave.all

theorem wholeWave_eq_true_iff (s : State) (i : Instr) : wholeWave s i = true ↔
    s.wave.cur.mask &&& s.wave.all = s.wave.all ∧
    (if (predOf i).2.1 then ~~~rdK s (predOf i).1.toNat else rdK s (predOf i).1.toNat) &&& s.wave.all = s.wave.all := by
  simp only [wholeWave, Bool.and_eq_true, beq_iff_eq]

theorem wholeWave_eq_false_iff (s : State) (i : Instr) : wholeWave s i = false ↔
    s.wave.cur.mask &&& s.wave.all ≠ s.wave.all ∨
    (if (predOf i).2.1 then ~~~rdK s (predOf i).1.toNat else rdK s (predOf i).1.toNat) &&& s.wave.all ≠ s.wave.all := by
  simp only [wholeWave, Bool.and_eq_false_iff, beq_eq_false_iff_ne]

theorem h_eq_false_of_heldByHandler (hheld : heldByHandler s i = true) : s.wave.cur.h = false := by
  simp only [heldByHandler, Bool.and_eq_true, Bool.not_eq_true'] at hheld
  exact hheld.1

theorem heldByHandler_eq_false_iff (s : State) (i : Instr) : heldByHandler s i = false ↔
    ¬ (anyHandler s.wave = true ∧ s.wave.cur.h = false ∧
      ((∃ r ∈ srcsAt s i, sharedReg r.1 = true) ∨ (∃ r ∈ dstsAt s i, sharedReg r = true))) ∧
    ¬ (s.wave.cur.h = false ∧ seqFull s.wave = true) := by
  rw [← Bool.not_eq_true, ← not_or]
  simp only [heldByHandler, Bool.and_eq_true, Bool.or_eq_true, Bool.not_eq_true', List.any_eq_true]
  rw [and_or_left, and_left_comm]

theorem accessReg_false (r : Reg) : accessReg false r = r := by cases r <;> rfl

theorem awaits_eq_false_iff (hacc : s.acc = false) (i : Instr) : awaits s i = false ↔
    (∀ r ∈ srcsAt s i, emptyAny s r.1 = false) ∧ (∀ r ∈ dstsAt s i, emptyAny s r = false) := by
  simp only [awaits, hacc, accessReg_false, Bool.or_eq_false_iff, List.any_eq_false, Bool.not_eq_true]

theorem engineAwaits_eq_false (hd : ∀ r ∈ dstsAt s i, emptyAny s r = false) : engineAwaits s i = false := by
  rw [engineAwaits, List.any_eq_false.2 (by simpa using hd), Bool.and_false]

theorem emptyTrapMask_eq_none (hs : ∀ r ∈ srcsAt s i, emptyAny s r.1 = false) : emptyTrapMask s i = none := by
  have hbad : (srcsAt s i).filter (fun r => r.2 && emptyAny s r.1) = [] :=
    List.filter_eq_nil_iff.2 fun r hr => by simp [hs r hr]
  simp only [emptyTrapMask, hbad, List.isEmpty_nil, ↓reduceIte]

/-! ### The outcome of the checks in a split -/

/-- Past the forced fuse the whole wave, the handler's registers, the engine and the operands decide, in this order. -/
theorem issueCheck_past_fuse (hlive : s.wave.live = true) (hacc : s.acc = false) (hruns : splitRuns s = true)
    (hfate : fateOf s i = none) (hfused : needsFuse (expand i) = true → s.wave.cur.fused = true) (full : Bool) :
    issueCheck i s full =
      if wholeChecked (expand i) && !wholeWave s (expand i) then .trap { cause := 3, sub := 1, mask := s.wave.cur.mask }
      else if heldByHandler s (expand i) || full || engineAwaits s (expand i) then .hold
      else (emptyTrapMask s (expand i)).elim (if awaits s (expand i) then .hold else .go)
        fun m => .trap { cause := 2, sub := 0, mask := m } := by
  have hfuse : (needsFuse (expand i) && !s.wave.cur.fused) = false := by simpa using hfused
  simp only [issueCheck, hlive, hacc, hruns, hfate, hfuse, Bool.not_true, Bool.false_eq_true, ↓reduceIte]
  cases emptyTrapMask s (expand i) <;> rfl

/-- An issue has come past residence, the split's own conditions, decode and the forced fuse. -/
theorem past_fuse_of_go (hacc : s.acc = false) (hgo : issueCheck i s full = .go) :
    s.wave.live = true ∧ splitRuns s = true ∧ fateOf s i = none ∧
    (needsFuse (expand i) = true → s.wave.cur.fused = true) := by
  simp only [issueCheck, hacc, Bool.false_eq_true, ↓reduceIte] at hgo
  split at hgo
  · cases hgo
  next hlive =>
  split at hgo
  · cases hgo
  next hruns =>
  split at hgo
  · cases hgo
  next hfate =>
  split at hgo
  · cases hgo
  next hfuse =>
  exact ⟨by simpa using hlive, by simpa using hruns, hfate, by simpa using hfuse⟩

/-- The checks of a split pass exactly when each of them does. -/
theorem issueCheck_eq_go_iff (hacc : s.acc = false) (full : Bool) : issueCheck i s full = .go ↔
    s.wave.live = true ∧ splitRuns s = true ∧ fateOf s i = none ∧
    (needsFuse (expand i) = true → s.wave.cur.fused = true) ∧
    (wholeChecked (expand i) = true → wholeWave s (expand i) = true) ∧ heldByHandler s (expand i) = false ∧ full = false ∧
    engineAwaits s (expand i) = false ∧ emptyTrapMask s (expand i) = none ∧ awaits s (expand i) = false := by
  constructor
  · intro hgo
    obtain ⟨hlive, hruns, hfate, hfused⟩ := past_fuse_of_go hacc hgo
    rw [issueCheck_past_fuse hlive hacc hruns hfate hfused] at hgo
    refine ⟨hlive, hruns, hfate, hfused, ?_⟩
    split at hgo
    · cases hgo
    split at hgo
    · cases hgo
    cases hm : emptyTrapMask s (expand i) with
    | some m => simp [hm] at hgo
    | none => simp_all
  · rintro ⟨hlive, hruns, hfate, hfused, hwhole, hheld, hfull, heng, hmask, hawaits⟩
    rw [issueCheck_past_fuse hlive hacc hruns hfate hfused]
    simpa [hheld, hfull, heng, hmask, hawaits] using hwhole

/-- Settles O9: the checks in their order, with those that the last one implies left out. -/
theorem issueConditions : Obligations.IssueConditions := by
  unfold Obligations.IssueConditions Ready
  intro i s hacc
  simp only [issueCheck_eq_go_iff hacc, wholeWave_eq_true_iff, heldByHandler_eq_false_iff, awaits_eq_false_iff hacc]
  constructor
  · rintro ⟨hlive, hruns, hfate, hfused, hwhole, ⟨hshared, hseq⟩, hfull, -, -, hsrc, hdst⟩
    exact ⟨hlive, hruns, hfate, hfused, hwhole, hshared, hseq, hfull, hsrc, hdst⟩
  · rintro ⟨hlive, hruns, hfate, hfused, hwhole, hshared, hseq, hfull, hsrc, hdst⟩
    exact ⟨hlive, hruns, hfate, hfused, hwhole, ⟨hshared, hseq⟩, hfull, engineAwaits_eq_false hdst,
      emptyTrapMask_eq_none hsrc, hsrc, hdst⟩

/-- Settles O12: each outcome of the checks past the forced fuse, executed. -/
theorem trapsBeforeIssue : Obligations.TrapsBeforeIssue := by
  unfold Obligations.TrapsBeforeIssue
  intro i s hi hlive hacc hruns hfate hfused
  have hcheck := issueCheck_past_fuse hlive hacc hruns hfate hfused (engineFull i s)
  simp only [← wholeWave_eq_true_iff, ← wholeWave_eq_false_iff]
  constructor
  · intro hw hp
    exact exec_trapped_of_trap hi hacc (hcheck.trans (by simp [hw, hp]))
  · intro hwhole
    have hpart : (wholeChecked (expand i) && !wholeWave s (expand i)) = false := by simpa using hwhole
    rw [hpart] at hcheck
    refine ⟨fun hheld => ⟨h_eq_false_of_heldByHandler hheld, exec_of_hold hi (hcheck.trans (by simp [hheld]))⟩,
      fun hcmd => exec_of_hold hi (hcheck.trans ?_),
      fun m hheld hfull heng hm => exec_trapped_of_trap hi hacc (hcheck.trans (by simp [hheld, hfull, heng, hm])),
      fun hm hawaits => exec_of_hold hi (hcheck.trans (by simp [hm, hawaits]))⟩
    rcases hcmd with h | h <;> simp [h]

end Sys2Proof.Machine
